-- ==== Sys2Proof/Word.lean ====
section
/-! DEFINITION. The word of the command and response ports. -/

namespace Sys2Proof

/-- A command word or a response word: 16 bits, presented whole, bit 0 least significant (R10, R53, R71, R75). -/
abbrev Word := BitVec 16

end Sys2Proof
end

