-- ==== Sys2Proof/Config.lean ====
section
/-! DEFINITION. What one instance of the block is built with (R8, R9, R21) and the free values. -/

namespace Sys2Proof

/-- `CW`: width of a counter and of a threshold (R8, D5). -/
abbrev CW : Nat := 8

/-- `PINW`: width of a pin identifier (R8, D6). -/
abbrev PINW : Nat := 8

/-- `IDXW`: width of a button index in a command and in an event (R8, D7). -/
abbrev IDXW : Nat := 8

/-- `QCAP`: how many events the queue holds (R8, R138, D12). -/
abbrev QCAP : Nat := 8

/-- `QIW`: width of `front` and `back`, the logarithm of `QCAP` (R8, D13). -/
abbrev QIW : Nat := 3

/-- The largest legal `N` (R8, D7). -/
abbrev maxButtons : Nat := 256

/-- A counter or a threshold, unsigned (R22, R108). -/
abbrev Count := BitVec CW

/-- A pin identifier, which the block only presents on the pin port (R8, R50, D6). -/
abbrev PinId := BitVec PINW

/-- A button index as a command and an event carry it (R74, R80). -/
abbrev ButtonIndex := BitVec IDXW

/-- `EVENT_MODE`: how `UPDATE` distributes edges. This hardware is `queue` (R7); R158 and R159 give the other two. -/
inductive EventMode where
  | queue
  | callback
  | none
deriving DecidableEq, Repr

/-- The two constants of one button (R8, R21). -/
structure Strap where
  pin       : PinId
  threshold : Count
deriving DecidableEq, Repr

/-- The configuration of one instance, the straps in registration order (R8, R43, R153). `N` is their number. -/
structure Config where
  straps    : List Strap
  eventMode : EventMode
deriving DecidableEq, Repr

/-- The configuration of `State.reset`: the one button with threshold 3 of VD's own scenario, wired as in program A
of 95_test_vectors.md, in queue mode. DESIGN CHOICE, log 2: the spec leaves `N`, `pin` and `threshold` to the instance. -/
def Config.sample : Config :=
  { straps := [{ pin := 5, threshold := 3 }], eventMode := .queue }

/-- FREE VALUE: the answer to a pin read for which `State.pins` lists none, the argument counting such reads
(R58: "a free input of the step"). It has no body, so nothing can be proved of its value. Log 4. -/
opaque Config.freePin : Nat → Bool

end Sys2Proof
end

