-- ==== Sys2Proof/Syntax.lean ====
section
/-! DEFINITION. The seven commands (R72) and the reasons for which a word is no command (R78). -/

namespace Sys2Proof

/-- A host command, one constructor per row of the opcode table (R72, R73). The operand is the button index (R74). -/
inductive Instr where
  | init
  | update
  | pop
  | read           (i : ButtonIndex)
  | consumeRising  (i : ButtonIndex)
  | consumeFalling (i : ButtonIndex)
  | consumeChanged (i : ButtonIndex)
deriving DecidableEq, Repr

/-- Why a word is illegal (R78). The hardware answers `ERR_ILLEGAL` to each alike (R172). -/
inductive Illegal where
  /-- `RSV != 0`. -/
  | reservedBits
  /-- `OP = 0x0` or `OP >= 0x8`. -/
  | reservedOpcode
  /-- `IDX != 0` on `INIT`, `UPDATE` or `POP`. -/
  | strayIndex
  /-- `POP` when `EVENT_MODE != QUEUE`. -/
  | popOutsideQueueMode
deriving DecidableEq, Repr

/-- What a command word decodes to. -/
inductive Decoded where
  | command (i : Instr)
  | illegal (why : Illegal)
deriving DecidableEq, Repr

end Sys2Proof
end

