-- ==== Sys2Proof/WellFormed.lean ====
section
/-! DEFINITION. Which configurations and which commands of an instance are well formed. -/

namespace Sys2Proof

/-- `N` is 0 to 256 (R8): indices fit the `IDX` field. `N = 0` and a zero threshold are representable (R8, R41)
and rejected by `INIT`, so they are well formed here. -/
abbrev Config.WellFormed (c : Config) : Prop := c.straps.length ≤ maxButtons

/-- A command that an instance with this event mode has: all of them but `POP` outside queue mode (R36, R78).
An index is an 8-bit field (R74); whether it is below `N` does not affect decoding (R79). -/
abbrev Instr.WellFormed (mode : EventMode) (i : Instr) : Prop := i = .pop → mode = .queue

end Sys2Proof
end

