-- ==== Sys2Proof/Decode.lean ====
section
/-! DEFINITION. The decoder, total on 16-bit words, and after it the encoder and the assembler text. -/

namespace Sys2Proof

/-- `OP`, bits 15:12 (R71). -/
def opField (w : Word) : BitVec 4 := w.extractLsb' 12 4

/-- `RSV`, bits 11:8 (R71). -/
def rsvField (w : Word) : BitVec 4 := w.extractLsb' 8 4

/-- `IDX`, bits 7:0 (R71). -/
def idxField (w : Word) : ButtonIndex := w.extractLsb' 0 8

/-- A command that takes no index: `IDX` must be `0x00` (R71, R78). -/
def decodeUnindexed (w : Word) (i : Instr) : Decoded :=
  if idxField w = 0 then .command i else .illegal .strayIndex

/-- The command a word stands for (R71 to R73), or why it is illegal (R78). It depends on the word and, for `POP`,
on the event mode, and on nothing else (R79). -/
def decode (mode : EventMode) (w : Word) : Decoded :=
  if rsvField w ≠ 0 then .illegal .reservedBits
  else match (opField w).toNat with
    | 1 => decodeUnindexed w .init
    | 2 => decodeUnindexed w .update
    | 3 => if mode = .queue then decodeUnindexed w .pop else .illegal .popOutsideQueueMode
    | 4 => .command (.read (idxField w))
    | 5 => .command (.consumeRising (idxField w))
    | 6 => .command (.consumeFalling (idxField w))
    | 7 => .command (.consumeChanged (idxField w))
    | _ => .illegal .reservedOpcode

/-- The word that holds the opcode table's bits `w` of a row of `nbits` bits, bits above them 0. A command is one
16-bit word presented whole (R53, R79), so the table's numbering is the word's own. Log 12. -/
def tableWord (nbits w : Nat) : Word := BitVec.ofNat 16 (w % 2 ^ nbits)

/-- What the decoder of this hardware (queue mode, R7) reads from a row's bits. -/
def decodeTableWord (nbits w : Nat) : Option Instr :=
  match decode .queue (tableWord nbits w) with
  | .command i => some i
  | .illegal _ => none

/-- The word with the given `OP` and `IDX` and `RSV = 0` (R71). -/
def commandWord (op : BitVec 4) (idx : ButtonIndex) : Word := (op.setWidth 16 <<< 12) ||| idx.setWidth 16

/-- The word of a command (R72, R73). -/
def encode : Instr → Word
  | .init             => commandWord 0x1#4 0
  | .update           => commandWord 0x2#4 0
  | .pop              => commandWord 0x3#4 0
  | .read i           => commandWord 0x4#4 i
  | .consumeRising i  => commandWord 0x5#4 i
  | .consumeFalling i => commandWord 0x6#4 i
  | .consumeChanged i => commandWord 0x7#4 i

/-- The mnemonic of a command (R72). -/
def Instr.mnemonic : Instr → String
  | .init             => "INIT"
  | .update           => "UPDATE"
  | .pop              => "POP"
  | .read _           => "READ"
  | .consumeRising _  => "CONSUME_RISING"
  | .consumeFalling _ => "CONSUME_FALLING"
  | .consumeChanged _ => "CONSUME_CHANGED"

/-- The index a command carries, if it takes one (R72). -/
def Instr.index? : Instr → Option ButtonIndex
  | .init | .update | .pop => none
  | .read i | .consumeRising i | .consumeFalling i | .consumeChanged i => some i

/-- Assembler text: the mnemonic and, after a space, the index in decimal (R83). -/
def Instr.asm (i : Instr) : String :=
  match i.index? with
  | none => i.mnemonic
  | some k => i.mnemonic ++ " " ++ toString k.toNat

end Sys2Proof
end

