-- ==== Sys2Proof/Machine/State.lean ====
section
/-! DEFINITION. The state of the block (R20, R43), its configuration (R21) and its ports, as plain data. -/

namespace Sys2Proof.Machine

/-- An edge of the debounced level (R14, R81). -/
inductive EdgeType where
  | rising
  | falling
deriving DecidableEq, Repr

/-- The lifecycle register (R37). -/
inductive Phase where
  | uninit
  | run
deriving DecidableEq, Repr

/-- The status of a response (R76). -/
inductive Status where
  | ok
  | errConfig
  | errPhase
  | errIndex
  | errIllegal
deriving DecidableEq, Repr

/-- An event: an immutable record of the button's index and the edge (R80). -/
structure Event where
  etype : EdgeType
  btn   : ButtonIndex
deriving DecidableEq, Repr

/-- The registers of one button (R22 to R26, R43). State bits 7:3 are hardwired 0 and not stored (R27, log 13). -/
structure Button where
  counter : Count
  current : Bool
  rising  : Bool
  falling : Bool
deriving DecidableEq, Repr, Inhabited

/-- The event queue: ring, pop end, push end, number of events held (R30 to R33). -/
structure Queue where
  buf   : Vector Event QCAP
  front : BitVec QIW
  back  : BitVec QIW
  count : BitVec 4
deriving DecidableEq, Repr

/-- What the outside world does next (R70, R190, R191, R201, R205). -/
inductive HostInput where
  /-- A command word. -/
  | command (w : Word)
  /-- `rst` asserted while no command executes. -/
  | reset
  /-- A command word, and `rst` asserted when the block has made the first `done` of that command's actions at its
  pin and event ports (R191). -/
  | resetDuring (w : Word) (done : Nat)
  /-- The environment changes: from now on it completes as many port actions as `stallAfter` says, the first of them
  the one it had left open, if there was one (R85, R201). -/
  | environment (stallAfter : Option Nat)
deriving DecidableEq, Repr

/-- What the block does at its pin and event ports (R58, R61, R85, R158). -/
inductive PortAction where
  /-- `PinRead(p)`. -/
  | pinRead (p : PinId)
  /-- An event handed to the event consumer, in callback mode. -/
  | deliver (ev : Event)
deriving DecidableEq, Repr

/-- A command that the environment holds up at a port: the port is busy until it has been served, or until reset
(R85, R158, R201). -/
structure Waiting where
  /-- The command, `INIT` or `UPDATE`. -/
  command : Instr
  /-- The port actions of it that the environment has completed. -/
  done    : List PortAction
deriving DecidableEq, Repr

/-- The machine: configuration `cfg`, block state `btn`, `q`, `phase`, and the ports. -/
structure State where
  /-- The instance's constants (R8, R21). No step writes them. Log 1. -/
  cfg    : Config
  /-- The button table, index 0 first (R43, R50). -/
  btn    : List Button
  /-- The event queue (R30 to R34). -/
  q      : Queue
  /-- The lifecycle register (R37). -/
  phase  : Phase
  /-- The response word given to the latest command, if one was given since reset (R70, R75). Log 7. -/
  rsp    : Option Word
  /-- What the latest command did at the pin and event ports, in order (R61, R204). Log 7. -/
  ports  : List PortAction
  /-- The host's inputs still to come, the next one first (R204). Log 6. -/
  host   : List HostInput
  /-- The pin environment's answers to the coming pin reads, the next one first (R58). Log 4. -/
  pins   : List Bool
  /-- How many answers came from the free value `Config.freePin`. Log 4. -/
  draws  : Nat
  /-- How many more port actions the environment completes (answers to pin reads, events accepted) before it leaves one
  open; `none` when it completes every one, its duty (R201, R205). Log 5. -/
  stallAfter : Option Nat
  /-- The command that waits for the environment, if one does (R201, U11). Log 5. -/
  busy   : Option Waiting
deriving DecidableEq, Repr

/-- Why the machine stops. -/
inductive Fault where
  /-- Raised by `UPDATE` in phase RUN when some button's threshold is 0, a state that no run from reset reaches:
  STEP with threshold 0 is "unspecified" and must be given no meaning (R110, U1). Safe. Log 8. -/
  | zeroThreshold
deriving DecidableEq, Repr

/-- Why a step has no meaning. -/
inductive Refusal where
  /-- An instruction that has no meaning yet, by its mnemonic. Raised by nothing: every instruction has one. Safe. -/
  | notModelled (mnemonic : String)
deriving DecidableEq, Repr

/-- A button's reset values (R41). -/
def Button.reset : Button := { counter := 0, current := false, rising := false, falling := false }

/-- The queue's reset values (R41). The slots are unspecified there ("a model may take 0"): each holds the event word
0x000. DESIGN CHOICE, log 3. -/
def Queue.reset : Queue :=
  { buf := Vector.replicate QCAP { etype := .falling, btn := 0 }, front := 0, back := 0, count := 0 }

/-- An instance with configuration `c` right after reset (R41, R190, R192): no input is listed yet. -/
def State.resetOf (c : Config) : State :=
  { cfg := c, btn := List.replicate c.straps.length Button.reset, q := Queue.reset, phase := .uninit,
    rsp := none, ports := [], host := [], pins := [], draws := 0, stallAfter := none,
    busy := none }

/-- The machine right after reset, for the configuration that log 2 names. -/
def State.reset : State := State.resetOf Config.sample

end Sys2Proof.Machine
end

