-- ==== Sys2Proof/Machine/Operands.lean ====
section
/-! DEFINITION. Operands and results: configuration constants, buttons by index, the event, state and response words. -/

namespace Sys2Proof

/-- `N` (R8). -/
def Config.n (c : Config) : Nat := c.straps.length

/-- `pin[i]` (R8, R52). -/
def Config.pin (c : Config) (i : Nat) : PinId := (c.straps[i]?.map Strap.pin).getD 0

/-- `threshold[i]` (R8). -/
def Config.threshold (c : Config) (i : Nat) : Count := (c.straps[i]?.map Strap.threshold).getD 0

/-- Every threshold is at least 1. -/
def Config.thresholdsOk (c : Config) : Bool := c.straps.all fun b => b.threshold != 0

/-- `ConfigOK`: there is a button and every threshold is at least 1 (R152). -/
def Config.ok (c : Config) : Bool := decide (1 ≤ c.n) && c.thresholdsOk

namespace Machine

/-- `etype`: RISING = 1, FALLING = 0 (R81). -/
def EdgeType.bit : EdgeType → Bool
  | .rising  => true
  | .falling => false

/-- The 9-bit event word: `etype` in bit 8, `btn` in bits 7:0 (R80). -/
def Event.word (ev : Event) : BitVec 9 :=
  ((BitVec.ofBool ev.etype.bit).setWidth 9 <<< 8) ||| ev.btn.setWidth 9

/-- `phase` as its bit: UNINIT = 0, RUN = 1 (R37). -/
def Phase.bit : Phase → Bool
  | .uninit => false
  | .run    => true

/-- The state byte: `current` bit 0, `rising` bit 1, `falling` bit 2, bits 7:3 always 0 (R23, R27, R82). -/
def Button.stateByte (b : Button) : BitVec 8 :=
  (BitVec.ofBool b.current).setWidth 8 ||| ((BitVec.ofBool b.rising).setWidth 8 <<< 1) |||
    ((BitVec.ofBool b.falling).setWidth 8 <<< 2)

/-- The code of a status (R76). -/
def Status.code : Status → BitVec 4
  | .ok         => 0x0
  | .errConfig  => 0x1
  | .errPhase   => 0x2
  | .errIndex   => 0x3
  | .errIllegal => 0x4

/-- The response word: STATUS 15:12, VALID 11, zeros 10:9, ETYPE 8, VAL 7:0 (R75). -/
def responseWord (st : Status) (valid etype : Bool) (val : BitVec 8) : Word :=
  (st.code.setWidth 16 <<< 12) ||| ((BitVec.ofBool valid).setWidth 16 <<< 11) |||
    ((BitVec.ofBool etype).setWidth 16 <<< 8) ||| val.setWidth 16

/-- `VAL` of a boolean result: bit 0, the other bits 0 (R75). -/
def boolVal (b : Bool) : BitVec 8 := (BitVec.ofBool b).setWidth 8

/-- `IDX` is legal when it is below `N` (R54, R74). -/
def State.hasButton (s : State) (i : ButtonIndex) : Bool := decide (i.toNat < s.cfg.n)

/-- `btn[i]` (R11). Outside the table, which a state that no run reaches may make shorter than `N`, the reset values:
DESIGN CHOICE, log 11. -/
def State.button (s : State) (i : Nat) : Button := s.btn.getD i Button.reset

/-- `btn[i] <- b` (R11). -/
def State.setButton (s : State) (i : Nat) (b : Button) : State := { s with btn := s.btn.set i b }

end Machine

end Sys2Proof
end

