-- ==== Sys2Proof/Machine/Flags.lean ====
section
/-! DEFINITION. What the integrator does to the counter and the three flags of one button. -/

namespace Sys2Proof

/-- FREE VALUE: what STEP would do with threshold 0. It has no body, so no theorem can rest on it (R110, U1).
`UPDATE` stops before it could be used. Log 8. -/
opaque Config.zeroThresholdStep : Bool → Machine.Button → Machine.Button × Option Machine.EdgeType

namespace Machine

/-- `SEED` on one button (R101): the level is the sample, the counter goes to that rail, both latches are cleared. -/
def Button.seed (T : Count) (sample : Bool) : Button :=
  { counter := if sample then T else 0, current := sample, rising := false, falling := false }

/-- The counter after an up-sample: one more, pinned at the threshold (R102, R108). -/
def countUp (T c : Count) : Count := if c < T then c + 1 else c

/-- The counter after a down-sample: one less, floor at 0 (R102, R108). -/
def countDown (c : Count) : Count := if c > 0 then c - 1 else c

/-- `STEP` on one button (R102). The rail test is made on the counter after this sample (conflict C1). Only
`T >= 1` is admitted: it is checked here and by `UPDATE` (R110, U1, log 8). -/
def Button.step (T : Count) (sample : Bool) (b : Button) : Button × Option EdgeType :=
  if T = 0 then Config.zeroThresholdStep sample b
  else if sample then
    let c := countUp T b.counter
    if c = T ∧ b.current = false then
      ({ b with counter := c, current := true, rising := true }, some .rising)
    else
      ({ b with counter := c }, none)
  else
    let c := countDown b.counter
    if c = 0 ∧ b.current = true then
      ({ b with counter := c, current := false, falling := true }, some .falling)
    else
      ({ b with counter := c }, none)

/-- `rising <- 0` (R105). -/
def Button.clearRising (b : Button) : Button := { b with rising := false }

/-- `falling <- 0` (R106). -/
def Button.clearFalling (b : Button) : Button := { b with falling := false }

/-- Both latches cleared (R107). -/
def Button.clearBoth (b : Button) : Button := { b with rising := false, falling := false }

/-- Whether either latch is set (R107). -/
def Button.changed (b : Button) : Bool := b.rising || b.falling

end Machine

end Sys2Proof
end

