-- ==== Sys2Proof/Machine/Ops.lean ====
section
/-! DEFINITION. The named operations: responses and refusals, pin reads, the queue, the micro-operations, reset. -/

namespace Sys2Proof.Machine

/-! ### Responses and refusals -/

/-- The response port takes the word `w` (R70). -/
def State.setRsp (s : State) (w : Word) : State := { s with rsp := some w }

/-- `respond(fields)`: status OK and the named fields (R11, R75). -/
def respond (valid etype : Bool) (val : BitVec 8) (s : State) : State :=
  s.setRsp (responseWord .ok valid etype val)

/-- `refuse <Status>`, what this hardware has in the place of an exception (R171): the response is `STATUS << 12`,
no state is written, no pin is read, nothing is saved, and nothing has to be returned from. -/
def refuse (st : Status) (s : State) : State := s.setRsp (responseWord st false false 0)

/-! ### The pin and event ports -/

/-- One more action at the pin or event port. -/
def State.logPort (s : State) (a : PortAction) : State := { s with ports := s.ports ++ [a] }

/-- The answer to the `k`-th pin read from here on: as listed, else a free value (R58, log 4). -/
def State.answer (s : State) (k : Nat) : Bool := s.pins.getD k (Config.freePin (s.draws + (k - s.pins.length)))

/-- The next `k` answers are used up. -/
def State.skipAnswers (s : State) (k : Nat) : State :=
  { s with pins := s.pins.drop k, draws := s.draws + (k - s.pins.length) }

/-- `PinRead(p)`: the answer, and the state after it (R58). -/
def pinRead (p : PinId) (s : State) : Bool × State :=
  (s.answer 0, (s.skipAnswers 1).logPort (.pinRead p))

/-! ### Waiting for the environment -/

/-- Whether a port action is a pin read. -/
def PortAction.isRead : PortAction → Bool
  | .pinRead _ => true
  | .deliver _ => false

/-- The event that a port action delivers, if it is a delivery. -/
def PortAction.event? : PortAction → Option Event
  | .pinRead _  => none
  | .deliver ev => some ev

/-- Whether the environment completes `k` more port actions (R201, R205). -/
def State.completes (s : State) (k : Nat) : Bool :=
  match s.stallAfter with
  | none   => true
  | some j => decide (k ≤ j)

/-- Of these port actions, those that the environment completes. -/
def State.allowed (s : State) (acts : List PortAction) : List PortAction :=
  match s.stallAfter with
  | none   => acts
  | some j => acts.take j

/-- The environment has completed `k` more port actions. -/
def State.spend (s : State) (k : Nat) : State := { s with stallAfter := s.stallAfter.map (· - k) }

/-- The command waits: the port actions `done` were made and the next one is left open (R85, R201: "stuck, not
faulted"). Its one transition (R60) has not taken place, and it has not been answered. -/
def State.hang (s : State) (i : Instr) (done : List PortAction) : State :=
  { s with ports := s.ports ++ done, stallAfter := some 0, busy := some { command := i, done := done } }

/-- The command `i`, accepted in `s`, ends in `t` if the environment completes its port actions, and waits for it
otherwise (R85, R158, R201). -/
def atPorts (i : Instr) (s t : State) : State :=
  let acts := t.ports.drop s.ports.length
  if s.completes acts.length then t.spend acts.length else s.hang i (s.allowed acts)

/-! ### The event queue -/

/-- `(x + 1) mod QCAP` (R11, R137). -/
def nextIndex (x : BitVec QIW) : BitVec QIW := x + 1

/-- The ring slot an index names; it is always in range (R54). -/
def slot (x : BitVec QIW) : Fin QCAP := ⟨x.toNat, x.isLt⟩

/-- All slots hold an event: `count = QCAP` (R33, R131). -/
def Queue.full (q : Queue) : Bool := q.count == BitVec.ofNat 4 QCAP

/-- `PUSH(ev)` on the ring (R131): on a full queue the oldest event is dropped first. -/
def Queue.push (ev : Event) (q : Queue) : Queue :=
  { buf   := q.buf.set (slot q.back).val ev (slot q.back).isLt
    front := if q.full then nextIndex q.front else q.front
    back  := nextIndex q.back
    count := if q.full then q.count else q.count + 1 }

/-- The event of slot `front` and the ring without it, or nothing when the queue is empty (R132). -/
def Queue.pop? (q : Queue) : Option (Event × Queue) :=
  if q.count = 0 then none
  else some (q.buf.get (slot q.front), { q with front := nextIndex q.front, count := q.count - 1 })

/-- The abstract content `Q`, oldest first (R35). -/
def Queue.content (q : Queue) : List Event :=
  (List.range q.count.toNat).map fun j => q.buf.get (slot (q.front + BitVec.ofNat QIW j))

/-- The queue's registers take the values of `q`. -/
def State.setQueue (s : State) (q : Queue) : State := { s with q := q }

/-- What `UPDATE` does with an event: `PUSH` in queue mode (R154), `Deliver` in callback mode (R158), nothing in
poll-only mode (R159). -/
def emit (ev : Event) (s : State) : State :=
  match s.cfg.eventMode with
  | .queue    => s.setQueue (s.q.push ev)
  | .callback => s.logPort (.deliver ev)
  | .none     => s

/-! ### The micro-operations and the scan -/

/-- `phase <- p` (R37). -/
def State.setPhase (s : State) (p : Phase) : State := { s with phase := p }

/-- `SEED(i, a)` (R101). -/
def seedButton (i : Nat) (a : Bool) (s : State) : State := s.setButton i (Button.seed (s.cfg.threshold i) a)

/-- `STEP(i, a)`: the state and the edge (R102). -/
def stepButton (i : Nat) (a : Bool) (s : State) : State × Option EdgeType :=
  let r := Button.step (s.cfg.threshold i) a (s.button i)
  (s.setButton i r.1, r.2)

/-- The event of an edge of button `i` (R80). -/
def eventOf (i : Nat) (e : EdgeType) : Event := { etype := e, btn := BitVec.ofNat IDXW i }

/-- The event of an edge, if there is one, is distributed. -/
def emitEdge (i : Nat) (e : Option EdgeType) (s : State) : State :=
  match e with
  | none   => s
  | some e => emit (eventOf i e) s

/-- One pass of `INIT`'s loop: read the pin, then seed (R151, R61). -/
def initButton (i : Nat) (s : State) : State :=
  let r := pinRead (s.cfg.pin i) s
  seedButton i r.1 r.2

/-- One pass of `UPDATE`'s loop: read the pin, then step, then distribute the edge (R154, R61). -/
def tickButton (i : Nat) (s : State) : State :=
  let r := pinRead (s.cfg.pin i) s
  let e := stepButton i r.1 r.2
  emitEdge i e.2 e.1

/-- `for i in 0 .. n-1`: ascending, empty when `n = 0` (R11, R153, R160). -/
def forButtons (body : Nat → State → State) : Nat → State → State
  | 0,     s => s
  | n + 1, s => body n (forButtons body n s)

/-! ### The command port and reset -/

/-- The block accepts a host input: it leaves the host's list, and the outputs speak of this input from now on
(R60, R70, R65: "consumed when accepted and is not kept"). -/
def State.accept (s : State) (rest : List HostInput) : State := { s with host := rest, rsp := none, ports := [] }

/-- How many pin answers the command that waits has taken. They stay listed until it ends. -/
def State.openReads (s : State) : Nat :=
  match s.busy with
  | none   => 0
  | some w => w.done.countP PortAction.isRead

/-- Every piece of block state takes its reset value, and a command that waits is abandoned with the answers it has
taken; configuration and outside world stay (R41, R190, R191). -/
def State.applyReset (s : State) : State :=
  { s.skipAnswers s.openReads with
    btn := List.replicate s.cfg.n Button.reset, q := Queue.reset, phase := .uninit, rsp := none, busy := none }

end Sys2Proof.Machine
end

