-- ==== Sys2Proof/Machine/EventQueue.lean ====
section
/-! DEFINITION. The event queue's host command: POP. -/

namespace Sys2Proof.Machine

/-- `POP` (R132): the oldest event, or VALID = 0 when there is none. Outside queue mode there is no queue and the
command is illegal (R36, R78). -/
def execPop (s : State) : Host.Outcome State Fault Refusal :=
  if s.cfg.eventMode = .queue then
    match s.q.pop? with
    | none         => .next (respond false false 0 s)
    | some (ev, q) => .next (respond true ev.etype.bit ev.btn (s.setQueue q))
  else .next (refuse .errIllegal s)

end Sys2Proof.Machine
end

