-- ==== Sys2Proof/Machine/Integrator.lean ====
section
/-! DEFINITION. The integrator's host commands: READ, CONSUME_RISING, CONSUME_FALLING, CONSUME_CHANGED. -/

namespace Sys2Proof.Machine

/-- `READ i` (R104). -/
def execRead (i : ButtonIndex) (s : State) : Host.Outcome State Fault Refusal :=
  if s.hasButton i then .next (respond false false (boolVal (s.button i.toNat).current) s)
  else .next (refuse .errIndex s)

/-- `CONSUME_RISING i` (R105). -/
def execConsumeRising (i : ButtonIndex) (s : State) : Host.Outcome State Fault Refusal :=
  let b := s.button i.toNat
  if s.hasButton i then .next (respond false false (boolVal b.rising) (s.setButton i.toNat b.clearRising))
  else .next (refuse .errIndex s)

/-- `CONSUME_FALLING i` (R106). -/
def execConsumeFalling (i : ButtonIndex) (s : State) : Host.Outcome State Fault Refusal :=
  let b := s.button i.toNat
  if s.hasButton i then .next (respond false false (boolVal b.falling) (s.setButton i.toNat b.clearFalling))
  else .next (refuse .errIndex s)

/-- `CONSUME_CHANGED i` (R107). -/
def execConsumeChanged (i : ButtonIndex) (s : State) : Host.Outcome State Fault Refusal :=
  let b := s.button i.toNat
  if s.hasButton i then .next (respond false false (boolVal b.changed) (s.setButton i.toNat b.clearBoth))
  else .next (refuse .errIndex s)

end Sys2Proof.Machine
end

