-- ==== Sys2Proof/Machine/Registry.lean ====
section
/-! DEFINITION. The dispatcher's host commands: INIT and UPDATE. -/

namespace Sys2Proof.Machine

/-- `INIT` (R151): the refusals in the order R178 gives, then one pass over the buttons, then phase RUN.
It waits where the environment leaves a pin read open (R201). -/
def execInit (s : State) : Host.Outcome State Fault Refusal :=
  if s.phase = .run then .next (refuse .errPhase s)
  else if s.cfg.ok then .next (atPorts .init s
    (respond false false 0 ((forButtons initButton s.cfg.n s).setPhase .run)))
  else .next (refuse .errConfig s)

/-- `UPDATE` (R154, R158, R159): one debounce tick over all buttons. It waits where the
environment leaves a pin read or an event open (R85, R201). With a zero threshold, which no run reaches in
phase RUN, it faults: STEP has no meaning there (R110, U1, log 8). -/
def execUpdate (s : State) : Host.Outcome State Fault Refusal :=
  if s.phase = .uninit then .next (refuse .errPhase s)
  else if s.cfg.thresholdsOk then .next (atPorts .update s
    (respond false false 0 (forButtons tickButton s.cfg.n s)))
  else .fault .zeroThreshold

end Sys2Proof.Machine
end

