-- ==== Sys2Proof/Machine/Dispatch.lean ====
section
/-! DEFINITION. One arm per command. -/

namespace Sys2Proof.Machine

def exec (i : Instr) (s : State) : Host.Outcome State Fault Refusal :=
  match i with
  | .init => Sys2Proof.Machine.execInit s
  | .update => Sys2Proof.Machine.execUpdate s
  | .pop => Sys2Proof.Machine.execPop s
  | .read k => Sys2Proof.Machine.execRead k s
  | .consumeRising k => Sys2Proof.Machine.execConsumeRising k s
  | .consumeFalling k => Sys2Proof.Machine.execConsumeFalling k s
  | .consumeChanged k => Sys2Proof.Machine.execConsumeChanged k s

end Sys2Proof.Machine
end

