-- ==== Sys2Proof/Machine/CommandPort.lean ====
section
/-! DEFINITION. What the block does with an accepted host input. -/

namespace Sys2Proof.Machine

/-- An accepted command word: the command it decodes to, or the refusal ERR_ILLEGAL (R70, R78, R172). -/
def executeWord (w : Word) (s : State) : Host.Outcome State Fault Refusal :=
  match decode s.cfg.eventMode w with
  | .command i => exec i s
  | .illegal _ => .next (refuse .errIllegal s)

/-- The port actions that the word `w` makes, as far as the environment completes them. -/
def portActions (w : Word) (s : State) : List PortAction :=
  match executeWord w { s with ports := [] } with
  | .next t => t.ports
  | _ => []

/-- A reset while `w` executes (R191), after the first `done` of its port actions: the pin answers it took are used up
and the events it delivered were seen; everything it wrote is overwritten by the reset values, and no response is
given. Log 10. -/
def abandonWord (w : Word) (done : Nat) (s : State) : State :=
  let acts := (portActions w s).take done
  { ((s.skipAnswers (acts.countP PortAction.isRead)).spend acts.length).applyReset with ports := acts }

/-- The environment goes on as `e` says. A command that waits is served from where it stands: it is executed with the
port actions already completed before those that `e` grants (R85, R201). -/
def changeEnvironment (e : Option Nat) (s : State) : Host.Outcome State Fault Refusal :=
  match s.busy with
  | none   => .next { s with stallAfter := e }
  | some w => exec w.command { s with busy := none, stallAfter := e.map (· + w.done.length) }

/-- What one accepted input does. -/
def handleInput (x : HostInput) (s : State) : Host.Outcome State Fault Refusal :=
  match x with
  | .command w          => executeWord w s
  | .reset              => .next s.applyReset
  | .resetDuring w done => .next (abandonWord w done s)
  | .environment e      => changeEnvironment e s

/-- Whether an input comes through the command port, which is not ready while a command waits (R60, R84, R158). -/
def HostInput.needsPort : HostInput → Bool
  | .command _ | .resetDuring _ _ => true
  | .reset | .environment _       => false

/-- The input the block takes next, and the state once it is accepted; nothing when none is presented, or when the one
presented has to wait for the command port. -/
def fetch (s : State) : Option (HostInput × State) :=
  match s.host with
  | []        => none
  | x :: rest => if x.needsPort && s.busy.isSome then none else some (x, s.accept rest)

/-- `s` with a command word as the next input of the host, at a port that is ready. -/
def State.presentWord (s : State) (w : Word) : State := { s with host := .command w :: s.host, busy := none }

end Sys2Proof.Machine
end

