-- ==== Sys2Proof/Machine/Step.lean ====
section
/-! DEFINITION. One step: the next host input, whole (R60). -/

namespace Sys2Proof.Machine

/-- The block takes the next input to its end, or as far as the environment lets it (R201). With none it is idle and
keeps all its state (R184, R192). With a command presented while another one waits, the host waits too (R205). -/
def step (s : State) : Host.Outcome State Fault Refusal :=
  match fetch s with
  | none        => .next s
  | some (x, t) => handleInput x t

/-- `s` with the table's word as the command the host presents next; there is no program counter (R38). Log 6. -/
def State.withFetchWord (s : State) (nbits w : Nat) : State := s.presentWord (tableWord nbits w)

end Sys2Proof.Machine
end

