-- ==== Sys2Proof/Safety.lean ====
section
/-! DEFINITION. The terms claims are stated in: well-formed states, the invariants the spec gives, and what a tick and
a stream of samples make of a button. -/

namespace Sys2Proof.Machine

/-- The queue invariants (R34). -/
abbrev Queue.WellFormed (q : Queue) : Prop :=
  q.count.toNat ≤ QCAP ∧ q.back = q.front + BitVec.ofNat QIW q.count.toNat

/-- Well-formed states (R43): a legal `N`, one record per button, a well-formed queue. -/
abbrev State.WellFormed (s : State) : Prop :=
  s.cfg.WellFormed ∧ s.btn.length = s.cfg.n ∧ s.q.WellFormed

/-- The counter is in range (R22) and the rails agree with the level (R28). -/
abbrev Button.Settled (T : Count) (b : Button) : Prop :=
  b.counter ≤ T ∧ (b.counter = T → b.current = true) ∧ (b.counter = 0 → b.current = false)

/-- What reset establishes and every input preserves: a well-formed state (R43); in UNINIT the reset values and an empty
queue (R41, R192); in RUN an accepted configuration and settled buttons (R195); no event outside queue mode (R36); only
`INIT` and `UPDATE`, each in its own phase, can wait for the environment (R58, R201). -/
abbrev State.Inv (s : State) : Prop :=
  s.WellFormed ∧
  (s.phase = .uninit → (∀ i < s.cfg.n, s.button i = Button.reset) ∧ s.q.count = 0) ∧
  (s.phase = .run → s.cfg.ok = true ∧ ∀ i < s.cfg.n, (s.button i).Settled (s.cfg.threshold i)) ∧
  (s.cfg.eventMode ≠ .queue → s.q.count = 0) ∧
  (∀ w ∈ s.busy, (w.command = .init ∧ s.phase = .uninit) ∨ (w.command = .update ∧ s.phase = .run))

/-- Button `i` and its edge after one tick from `s`, its sample being the `i`-th coming answer (R58, R154). -/
def State.tickOf (s : State) (i : Nat) : Button × Option EdgeType :=
  Button.step (s.cfg.threshold i) (s.answer i) (s.button i)

/-- The events of one tick from `s`, in ascending button index (R136, R154). -/
def State.tickEvents (s : State) : List Event :=
  (List.range s.cfg.n).filterMap fun i => (s.tickOf i).2.map (eventOf i)

/-- What `INIT` from `s` does at the ports: one pin read per button, ascending (R58, R61). -/
def State.initPorts (s : State) : List PortAction := (List.range s.cfg.n).map fun i => .pinRead (s.cfg.pin i)

/-- What one tick from `s` does at the ports: per button the pin read, then in callback mode its event (R61, R158). -/
def State.tickPorts (s : State) : List PortAction :=
  (List.range s.cfg.n).flatMap fun i =>
    .pinRead (s.cfg.pin i) ::
      (if s.cfg.eventMode = .callback then ((s.tickOf i).2.map (eventOf i)).toList.map .deliver else [])

/-- The port actions of a command that is not refused (R58, R61, R158). -/
def State.actionsOf (s : State) : Instr → List PortAction
  | .init   => s.initPorts
  | .update => s.tickPorts
  | _       => []

/-- The command is not refused and makes port actions: it is the one that can wait for the environment (R58, R201). -/
abbrev State.UsesPorts (s : State) (i : Instr) : Prop :=
  (i = .init ∧ s.phase = .uninit ∧ s.cfg.ok = true) ∨ (i = .update ∧ s.phase = .run ∧ s.cfg.thresholdsOk = true)

/-- From `s` to `t` exactly the events `evs` were distributed, in that order: pushed in queue mode, delivered in callback
mode, neither in poll-only mode (R154, R158, R159). -/
abbrev State.Distributed (s t : State) (evs : List Event) : Prop :=
  t.q = (if s.cfg.eventMode = .queue then evs.foldl (fun q ev => q.push ev) s.q else s.q) ∧
  t.ports.filterMap PortAction.event? =
    s.ports.filterMap PortAction.event? ++ (if s.cfg.eventMode = .callback then evs else [])

/-- STEP along a stream of samples: the button at the end and each sample's result (R113). -/
def Button.steps (T : Count) : List Bool → Button → Button × List (Option EdgeType)
  | [],      b => (b, [])
  | a :: as, b =>
    let r := Button.step T a b
    let rest := Button.steps T as r.1
    (rest.1, r.2 :: rest.2)

/-- Each edge changes the level that the edge before it left, the first one `level` (R81, R113). -/
def alternatesFrom : Bool → List EdgeType → Bool
  | _,     []      => true
  | level, e :: es => (e.bit != level) && alternatesFrom e.bit es

/-- Newest first, the edges lead back from `level` in strict alternation (R81, R113). -/
def alternatesBackFrom : Bool → List EdgeType → Bool
  | _,     []      => true
  | level, e :: es => (e.bit == level) && alternatesBackFrom (!level) es

/-- The edges of button `i` among events, in their order. -/
def edgesOf (i : Nat) (evs : List Event) : List EdgeType :=
  (evs.filter fun ev => ev.btn == BitVec.ofNat IDXW i).map Event.etype

/-- The queue agrees with the levels: read back from the newest, the events of each button alternate strictly and the
newest one's edge type is the button's level now (R81, R113, R156). -/
abbrev State.QueueAgrees (s : State) : Prop :=
  ∀ i < s.cfg.n, alternatesBackFrom (s.button i).current (edgesOf i s.q.content).reverse = true

/-- A list of commands, one after the other; nothing when one of them stops the machine. -/
def runCommands : List Instr → State → Option State
  | [],      s => some s
  | i :: is, s =>
    match exec i s with
    | .next t => runCommands is t
    | _       => none

/-- `k` steps, one host input each. -/
def runSteps : Nat → State → Option State
  | 0,     s => some s
  | k + 1, s =>
    match step s with
    | .next t => runSteps k t
    | _       => none

/-- The button seen with high and low exchanged (R103: "exchanging `s` with `1 - s`, `c` with `T - c`, `v` with `1 - v`"). -/
def Button.mirror (T : Count) (b : Button) : Button :=
  { counter := T - b.counter, current := !b.current, rising := b.falling, falling := b.rising }

/-- RISING and FALLING exchanged. -/
def EdgeType.mirror : EdgeType → EdgeType
  | .rising  => .falling
  | .falling => .rising

end Sys2Proof.Machine
end

