-- ==== Sys2Proof/Certificates/Slice0/Obligations.lean ====
section
/-! DEFINITION. The statements about the model, each from a rule of spec/ or from what follows from several. -/

open Sys2Proof Sys2Proof.Machine

/-! ### Encoding and decoding -/

/-- Every command that the instance has is read back from its word, whatever its index (R71, R72). -/
def Obligations.DecodeOfEncodeIsTheCommand : Prop :=
  ∀ (mode : EventMode) (i : Instr), i.WellFormed mode → decode mode (encode i) = .command i

/-- A word that decodes to a command is that command's only word. -/
def Obligations.EncodeOfDecodeIsTheWord : Prop :=
  ∀ (mode : EventMode) (w : Word) (i : Instr),
    decode mode w = .command i → encode i = w ∧ i.WellFormed mode

/-- R73: the match and mask rows say which word is which command; the rows are pairwise disjoint; a word that matches
no row is illegal. -/
def Obligations.MatchAndMaskSelectTheCommand : Prop :=
  (∀ w : Word,
    (decode .queue w = .command .init ↔ w &&& 0xFFFF#16 = 0x1000#16) ∧
    (decode .queue w = .command .update ↔ w &&& 0xFFFF#16 = 0x2000#16) ∧
    (decode .queue w = .command .pop ↔ w &&& 0xFFFF#16 = 0x3000#16) ∧
    (∀ i, decode .queue w = .command (.read i) ↔ w &&& 0xFF00#16 = 0x4000#16 ∧ w = 0x4000#16 + i.setWidth 16) ∧
    (∀ i, decode .queue w = .command (.consumeRising i) ↔
      w &&& 0xFF00#16 = 0x5000#16 ∧ w = 0x5000#16 + i.setWidth 16) ∧
    (∀ i, decode .queue w = .command (.consumeFalling i) ↔
      w &&& 0xFF00#16 = 0x6000#16 ∧ w = 0x6000#16 + i.setWidth 16) ∧
    (∀ i, decode .queue w = .command (.consumeChanged i) ↔
      w &&& 0xFF00#16 = 0x7000#16 ∧ w = 0x7000#16 + i.setWidth 16)) ∧
  [(0x1000#16, 0xFFFF#16), (0x2000#16, 0xFFFF#16), (0x3000#16, 0xFFFF#16), (0x4000#16, 0xFF00#16),
    (0x5000#16, 0xFF00#16), (0x6000#16, 0xFF00#16), (0x7000#16, 0xFF00#16)].Pairwise
      (fun a b => ∀ w : Word, ¬(w &&& a.2 = a.1 ∧ w &&& b.2 = b.1)) ∧
  (∀ w : Word,
    (∀ row ∈ [(0x1000#16, 0xFFFF#16), (0x2000#16, 0xFFFF#16), (0x3000#16, 0xFFFF#16), (0x4000#16, 0xFF00#16),
      (0x5000#16, 0xFF00#16), (0x6000#16, 0xFF00#16), (0x7000#16, 0xFF00#16)], w &&& row.2 ≠ row.1) →
    ∃ why, decode .queue w = .illegal why)

/-- R78: exactly these words are illegal, and an illegal word is answered `ERR_ILLEGAL` with no state written and no
pin read. -/
def Obligations.ReservedWordsAreRefused : Prop :=
  (∀ (mode : EventMode) (w : Word),
    (∃ why, decode mode w = .illegal why) ↔
      (w.extractLsb' 12 4 = 0#4 ∨ 8 ≤ (w.extractLsb' 12 4).toNat ∨ w.extractLsb' 8 4 ≠ 0#4 ∨
       ((w.extractLsb' 12 4 = 1#4 ∨ w.extractLsb' 12 4 = 2#4 ∨ w.extractLsb' 12 4 = 3#4) ∧
         w.extractLsb' 0 8 ≠ 0#8) ∨
       (w.extractLsb' 12 4 = 3#4 ∧ mode ≠ .queue))) ∧
  (∀ (s : State) (w : Word) (rest : List HostInput) (why : Illegal),
    s.busy = none → s.host = .command w :: rest → decode s.cfg.eventMode w = .illegal why →
    step s = .next { s with host := rest, rsp := some 0x4000#16, ports := [] }) ∧
  (∀ mode : EventMode, (∃ why, decode mode 0x0000#16 = .illegal why) ∧ (∃ why, decode mode 0xFFFF#16 = .illegal why))

/-- Words of 95_test_vectors.md V14 and what they stand for. -/
def Obligations.WordsOfTheSpecDecode : Prop :=
  decode .queue 0x1000#16 = .command .init ∧ decode .queue 0x2000#16 = .command .update ∧
  decode .queue 0x3000#16 = .command .pop ∧ decode .queue 0x40FF#16 = .command (.read 255) ∧
  decode .queue 0x5003#16 = .command (.consumeRising 3) ∧ decode .queue 0x6010#16 = .command (.consumeFalling 16) ∧
  decode .queue 0x7001#16 = .command (.consumeChanged 1) ∧ decode .queue 0x1001#16 = .illegal .strayIndex ∧
  decode .queue 0x4100#16 = .illegal .reservedBits ∧ decode .queue 0x8000#16 = .illegal .reservedOpcode

/-! ### The command port -/

/-- A step runs the decoded command: with the port ready it takes the word from the host, clears what the outputs said of
the command before, and is `exec` of the command from there. `withFetchWord` puts a word where the next step takes it. -/
def Obligations.StepRunsTheDecodedCommand : Prop :=
  (∀ (s : State) (w : Word) (rest : List HostInput) (i : Instr),
    s.busy = none → s.host = .command w :: rest → decode s.cfg.eventMode w = .command i →
    step s = exec i { s with host := rest, rsp := none, ports := [] }) ∧
  (∀ (s : State) (w : Word),
    s.withFetchWord 16 w.toNat = { s with host := .command w :: s.host, busy := none })

/-- One command word is consumed, and either exactly one response word is given (R70), or the command is an `INIT` or an
`UPDATE` that the environment holds up, and there is no response (R201). That buttons, queue and phase are then as before
the command is no rule's word but the model's reading of atomicity: log 5, DEDUCED. -/
def Obligations.EachCommandIsAnsweredOnce : Prop :=
  ∀ (s t : State) (w : Word) (rest : List HostInput),
    s.busy = none → s.host = .command w :: rest → step s = .next t → t.host = rest ∧
    ((t.busy = none ∧ ∃ r : Word, t.rsp = some r) ∨
     (t.rsp = none ∧ s.stallAfter ≠ none ∧ t.btn = s.btn ∧ t.q = s.q ∧ t.phase = s.phase ∧
      ∃ i acts, (i = .init ∨ i = .update) ∧ decode s.cfg.eventMode w = .command i ∧
        t.busy = some { command := i, done := acts }))

/-- With nothing presented the block is idle and keeps all its state. -/
def Obligations.IdleBlockKeepsItsState : Prop :=
  ∀ s : State, s.host = [] → step s = .next s

/-- R75: the fields of a response word, for every command that is answered. -/
def Obligations.ResponseWordFields : Prop :=
  ∀ (i : Instr) (s t : State), exec i s = .next t → t.busy = none → ∃ r : Word, t.rsp = some r ∧
    (r.extractLsb' 12 4).toNat ≤ 4 ∧
    r.extractLsb' 9 2 = 0#2 ∧
    (r.getLsbD 11 = true ↔ i = .pop ∧ s.cfg.eventMode = .queue ∧ s.q.count ≠ 0) ∧
    (r.getLsbD 11 = true →
      r.getLsbD 8 = (s.q.buf.get (slot s.q.front)).etype.bit ∧
      r.extractLsb' 0 8 = (s.q.buf.get (slot s.q.front)).btn) ∧
    (r.getLsbD 11 = false → r.getLsbD 8 = false ∧ r.extractLsb' 1 7 = 0#7) ∧
    (r.getLsbD 11 = false → i.index? = none → r.extractLsb' 0 8 = 0#8)

/-- R171: a refused command writes no state, reads no pin and delivers nothing; its response is the status and zeros;
and the next input is handled as if the refused one had never been issued. -/
def Obligations.RefusedCommandChangesNothing : Prop :=
  ∀ (s t : State) (w r : Word) (rest : List HostInput),
    s.busy = none → s.host = .command w :: rest → step s = .next t → t.rsp = some r → r.extractLsb' 12 4 ≠ 0#4 →
    t = { s with host := rest, rsp := some r, ports := [] } ∧ r.extractLsb' 0 12 = 0#12 ∧
    (rest ≠ [] → step t = step { s with host := rest })

/-- R173, R174 and R175: which command is answered which error, and when (a command that waits is not answered). -/
def Obligations.ErrorsHaveTheirCauses : Prop :=
  ∀ (i : Instr) (s t : State), exec i s = .next t → t.busy = none →
    (t.rsp = some 0x1000#16 ↔
      i = .init ∧ s.phase = .uninit ∧ (s.cfg.n = 0 ∨ ∃ k < s.cfg.n, s.cfg.threshold k = 0)) ∧
    (t.rsp = some 0x2000#16 ↔ (i = .update ∧ s.phase = .uninit) ∨ (i = .init ∧ s.phase = .run)) ∧
    (t.rsp = some 0x3000#16 ↔ ∃ k, i.index? = some k ∧ s.cfg.n ≤ k.toNat)

/-! ### Reset -/

/-- The values that reset leaves (R41), on every configuration, with the ring slots left open as the rule leaves them. A
command that waits for the environment is abandoned (R191). That the host's further inputs and the pin environment stay,
but for the answers that command had taken, is the model's choice: log 10. -/
def Obligations.ResetLeavesTheResetValues : Prop :=
  ∀ (s : State) (rest : List HostInput), s.host = .reset :: rest →
    ∃ t, step s = .next t ∧ t.btn.length = s.cfg.n ∧
      (∀ i, t.button i = { counter := 0, current := false, rising := false, falling := false }) ∧
      (∀ i, (t.button i).stateByte = 0#8) ∧
      t.q.front = 0 ∧ t.q.back = 0 ∧ t.q.count = 0 ∧ t.phase = .uninit ∧
      t.cfg = s.cfg ∧ t.rsp = none ∧ t.ports = [] ∧ t.host = rest ∧ t.busy = none ∧
      t.pins = s.pins.drop s.openReads ∧ t.stallAfter = s.stallAfter

/-- A reset during a command: whatever the command was and however far it had come, the block is in its reset state
and no response is given (R191). -/
def Obligations.ResetAbandonsACommand : Prop :=
  ∀ (s : State) (w : Word) (k : Nat) (rest : List HostInput), s.busy = none → s.host = .resetDuring w k :: rest →
    ∃ t, step s = .next t ∧ t.btn.length = s.cfg.n ∧
      (∀ i, t.button i = { counter := 0, current := false, rising := false, falling := false }) ∧
      t.q.content = [] ∧ t.q.front = 0 ∧ t.q.back = 0 ∧ t.phase = .uninit ∧
      t.cfg = s.cfg ∧ t.rsp = none ∧ t.host = rest ∧ t.busy = none ∧ t.ports.length ≤ k

/-- R192, for every configuration: before any `INIT` the accessors answer 0, `POP` answers empty, `UPDATE` is refused,
and with no command the block waits. -/
def Obligations.BlockBeforeInitAnswersZero : Prop :=
  ∀ s : State, s.Inv → s.phase = .uninit →
    (∀ i : ButtonIndex, i.toNat < s.cfg.n → ∀ c ∈ [Instr.read i, .consumeRising i, .consumeFalling i, .consumeChanged i],
      ∃ t, exec c s = .next t ∧ t.rsp = some 0x0000#16) ∧
    (s.cfg.eventMode = .queue → ∃ t, exec .pop s = .next t ∧ t.rsp = some 0x0000#16) ∧
    (∃ t, exec .update s = .next t ∧ t.rsp = some 0x2000#16) ∧
    (s.host = [] → step s = .next s)

/-! ### The integrator -/

/-- R103: STEP as a table, its rows exhaustive and disjoint, and its symmetry. -/
def Obligations.StepFollowsItsTable : Prop :=
  ∀ (T : Count) (b : Button), 1 ≤ T.toNat → b.counter.toNat ≤ T.toNat →
    (∃ row ∈ [b.counter.toNat + 1 < T.toNat, b.counter.toNat + 1 = T.toNat ∧ b.current = false,
      b.counter.toNat + 1 = T.toNat ∧ b.current = true, b.counter = T ∧ b.current = true,
      b.counter = T ∧ b.current = false], row) ∧
    [b.counter.toNat + 1 < T.toNat, b.counter.toNat + 1 = T.toNat ∧ b.current = false,
      b.counter.toNat + 1 = T.toNat ∧ b.current = true, b.counter = T ∧ b.current = true,
      b.counter = T ∧ b.current = false].Pairwise (fun p p' => ¬(p ∧ p')) ∧
    (∃ row ∈ [1 < b.counter.toNat, b.counter.toNat = 1 ∧ b.current = true, b.counter.toNat = 1 ∧ b.current = false,
      b.counter.toNat = 0 ∧ b.current = false, b.counter.toNat = 0 ∧ b.current = true], row) ∧
    [1 < b.counter.toNat, b.counter.toNat = 1 ∧ b.current = true, b.counter.toNat = 1 ∧ b.current = false,
      b.counter.toNat = 0 ∧ b.current = false, b.counter.toNat = 0 ∧ b.current = true].Pairwise
        (fun p p' => ¬(p ∧ p')) ∧
    (b.counter.toNat + 1 < T.toNat → Button.step T true b = ({ b with counter := b.counter + 1 }, none)) ∧
    (b.counter.toNat + 1 = T.toNat → b.current = false →
      Button.step T true b = ({ b with counter := T, current := true, rising := true }, some .rising)) ∧
    (b.counter.toNat + 1 = T.toNat → b.current = true → Button.step T true b = ({ b with counter := T }, none)) ∧
    (b.counter = T → b.current = true → Button.step T true b = (b, none)) ∧
    (b.counter = T → b.current = false →
      Button.step T true b = ({ b with current := true, rising := true }, some .rising)) ∧
    (1 < b.counter.toNat → Button.step T false b = ({ b with counter := b.counter - 1 }, none)) ∧
    (b.counter.toNat = 1 → b.current = true →
      Button.step T false b = ({ b with counter := 0, current := false, falling := true }, some .falling)) ∧
    (b.counter.toNat = 1 → b.current = false → Button.step T false b = ({ b with counter := 0 }, none)) ∧
    (b.counter.toNat = 0 → b.current = false → Button.step T false b = (b, none)) ∧
    (b.counter.toNat = 0 → b.current = true →
      Button.step T false b = ({ b with current := false, falling := true }, some .falling)) ∧
    (∀ a : Bool, Button.step T (!a) (b.mirror T) =
      ((Button.step T a b).1.mirror T, (Button.step T a b).2.map EdgeType.mirror))

/-- The counter after a sample, in whole numbers, for every threshold of at least 1 (R110): one up to the threshold, one
down to 0, never outside (R108). -/
def Obligations.CounterSaturatesAndNeverWraps : Prop :=
  ∀ (T : Count) (a : Bool) (b : Button), 1 ≤ T.toNat → b.counter.toNat ≤ T.toNat →
    (Button.step T a b).1.counter.toNat = (if a then min (b.counter.toNat + 1) T.toNat else b.counter.toNat - 1) ∧
    (Button.step T a b).1.counter.toNat ≤ T.toNat

/-- R109: with threshold 1 the level is the sample, and an edge is signalled on exactly the samples that differ from
the level that the sample before (or the seed) left. -/
def Obligations.ThresholdOneFollowsTheSample : Prop :=
  (∀ (a : Bool) (b : Button), b.counter.toNat ≤ 1 →
    (Button.step 1 a b).1.counter = (if a then 1 else 0) ∧ (Button.step 1 a b).1.current = a ∧
    (Button.step 1 a b).2 =
      (if a = b.current then none else if a then some .rising else some .falling)) ∧
  (∀ a : Bool, (Button.seed 1 a).current = a ∧ (Button.seed 1 a).counter.toNat ≤ 1)

/-- R111: how many samples a flip takes, in both directions, and the leaky example of the rule. -/
def Obligations.FlipTakesTheRemainingSamples : Prop :=
  (∀ (T : Count) (b : Button), b.counter.toNat < T.toNat → b.current = false →
    Button.steps T (List.replicate (T.toNat - b.counter.toNat) true) b =
      ({ b with counter := T, current := true, rising := true },
       List.replicate (T.toNat - b.counter.toNat - 1) none ++ [some .rising])) ∧
  (∀ (T : Count) (b : Button), 0 < b.counter.toNat → b.counter.toNat ≤ T.toNat → b.current = true →
    Button.steps T (List.replicate b.counter.toNat false) b =
      ({ b with counter := 0, current := false, falling := true },
       List.replicate (b.counter.toNat - 1) none ++ [some .falling])) ∧
  (∀ b : Button, b.counter = 0 → b.current = false →
    (Button.steps 3 [true] b).1.counter = 1 ∧ (Button.steps 3 [true, true] b).1.counter = 2 ∧
    (Button.steps 3 [true, true, false] b).1.counter = 1 ∧
    (Button.steps 3 [true, true, false, true] b).1.counter = 2 ∧
    Button.steps 3 [true, true, false, true, true] b =
      ({ b with counter := 3, current := true, rising := true }, [none, none, none, none, some .rising]))

/-- R112: from the low rail fewer than `T` up-samples and a down-sample leave level and latches as they were; from a
state with the level low and the counter above 0, fewer than `T` up-samples can flip. -/
def Obligations.NoiseIsRejectedFromTheLowRail : Prop :=
  (∀ (T : Count) (b : Button) (k : Nat), b.counter = 0 → b.current = false → k < T.toNat →
    Button.steps T (List.replicate k true ++ [false]) b =
      ({ b with counter := BitVec.ofNat CW (k - 1) }, List.replicate (k + 1) none)) ∧
  (∀ (T : Count) (b : Button), 0 < b.counter.toNat → b.counter.toNat < T.toNat → b.current = false →
    T.toNat - b.counter.toNat < T.toNat ∧
    (Button.steps T (List.replicate (T.toNat - b.counter.toNat) true) b).1.current = true)

/-- R113, for every threshold of at least 1 (R110) and counter in range: the edges of one button along any stream of
samples alternate strictly, starting against the level it had (after seeding, the seed sample); once saturated, further
samples of that level change and signal nothing. -/
def Obligations.EdgesAlternateAlongAnyStream : Prop :=
  ∀ T : Count, 1 ≤ T.toNat →
    (∀ (as : List Bool) (b : Button), b.counter.toNat ≤ T.toNat →
      alternatesFrom b.current ((Button.steps T as b).2.filterMap id) = true) ∧
    (∀ a : Bool, (Button.seed T a).current = a ∧ (Button.seed T a).counter.toNat ≤ T.toNat) ∧
    (∀ (b : Button) (k : Nat), b.counter = T → b.current = true →
      Button.steps T (List.replicate k true) b = (b, List.replicate k none))

/-- After a rise the counter is at the threshold, and a fall needs at least that many down-samples (R114). -/
def Obligations.FallNeedsThresholdDownSamples : Prop :=
  ∀ (T : Count) (as : List Bool) (b : Button), 1 ≤ T.toNat → b.counter = T → b.current = true →
    some .falling ∈ (Button.steps T as b).2 → T.toNat ≤ as.count false

/-- R27: state bit 3 and bits 7:4 are 0; bits 0 to 2 are the three flags. -/
def Obligations.StateByteLayout : Prop :=
  ∀ b : Button, b.stateByte.getLsbD 0 = b.current ∧ b.stateByte.getLsbD 1 = b.rising ∧
    b.stateByte.getLsbD 2 = b.falling ∧ b.stateByte.getLsbD 3 = false ∧ b.stateByte.extractLsb' 4 4 = 0#4

/-- R81: `etype` is 1 for RISING and 0 for FALLING, and equals the level that the edge leaves, for every threshold of at
least 1 (R110) and counter in range. -/
def Obligations.EdgeTypeIsTheNewLevel : Prop :=
  (∀ i : ButtonIndex, (Event.word { etype := .rising, btn := i }) = 0x100#9 + i.setWidth 9 ∧
    (Event.word { etype := .falling, btn := i }) = i.setWidth 9) ∧
  (∀ (T : Count) (a : Bool) (b : Button) (e : EdgeType), 1 ≤ T.toNat → b.counter.toNat ≤ T.toNat →
    (Button.step T a b).2 = some e →
    (Button.step T a b).1.current = e.bit ∧ b.current = !e.bit)

/-! ### The integrator's commands -/

/-- R104: `READ i` answers the level and writes nothing, in both phases; a bad index is refused. -/
def Obligations.ReadAnswersTheLevel : Prop :=
  ∀ (s : State) (i : ButtonIndex),
    encode (.read i) = 0x4000#16 + i.setWidth 16 ∧
    (i.toNat < s.cfg.n → exec (.read i) s =
      .next { s with rsp := some (if (s.button i.toNat).current then 0x0001#16 else 0x0000#16) }) ∧
    (s.cfg.n ≤ i.toNat → exec (.read i) s = .next { s with rsp := some 0x3000#16 })

/-- R105: `CONSUME_RISING i` answers the rising latch and clears it, and nothing else changes. -/
def Obligations.ConsumeRisingAnswersAndClears : Prop :=
  ∀ (s : State) (i : ButtonIndex), s.WellFormed →
    encode (.consumeRising i) = 0x5000#16 + i.setWidth 16 ∧
    (i.toNat < s.cfg.n → ∃ t, exec (.consumeRising i) s = .next t ∧
      t.rsp = some (if (s.button i.toNat).rising then 0x0001#16 else 0x0000#16) ∧
      t.button i.toNat = { s.button i.toNat with rising := false } ∧
      (∀ j, j ≠ i.toNat → t.button j = s.button j) ∧ t.btn.length = s.btn.length ∧
      { t with btn := s.btn, rsp := s.rsp } = s) ∧
    (s.cfg.n ≤ i.toNat → exec (.consumeRising i) s = .next { s with rsp := some 0x3000#16 })

/-- R106: `CONSUME_FALLING i` answers the falling latch and clears it, and nothing else changes. -/
def Obligations.ConsumeFallingAnswersAndClears : Prop :=
  ∀ (s : State) (i : ButtonIndex), s.WellFormed →
    encode (.consumeFalling i) = 0x6000#16 + i.setWidth 16 ∧
    (i.toNat < s.cfg.n → ∃ t, exec (.consumeFalling i) s = .next t ∧
      t.rsp = some (if (s.button i.toNat).falling then 0x0001#16 else 0x0000#16) ∧
      t.button i.toNat = { s.button i.toNat with falling := false } ∧
      (∀ j, j ≠ i.toNat → t.button j = s.button j) ∧ t.btn.length = s.btn.length ∧
      { t with btn := s.btn, rsp := s.rsp } = s) ∧
    (s.cfg.n ≤ i.toNat → exec (.consumeFalling i) s = .next { s with rsp := some 0x3000#16 })

/-- R107: `CONSUME_CHANGED i` answers whether either latch was set and clears both, and nothing else changes. -/
def Obligations.ConsumeChangedAnswersAndClears : Prop :=
  ∀ (s : State) (i : ButtonIndex), s.WellFormed →
    encode (.consumeChanged i) = 0x7000#16 + i.setWidth 16 ∧
    (i.toNat < s.cfg.n → ∃ t, exec (.consumeChanged i) s = .next t ∧
      t.rsp = some (if (s.button i.toNat).rising = true ∨ (s.button i.toNat).falling = true
        then 0x0001#16 else 0x0000#16) ∧
      t.button i.toNat = { s.button i.toNat with rising := false, falling := false } ∧
      (∀ j, j ≠ i.toNat → t.button j = s.button j) ∧ t.btn.length = s.btn.length ∧
      { t with btn := s.btn, rsp := s.rsp } = s) ∧
    (s.cfg.n ≤ i.toNat → exec (.consumeChanged i) s = .next { s with rsp := some 0x3000#16 })

/-- Of two consumes of a latch with no `UPDATE` between them, whatever other commands come between, the second answers
0 (R63); and a consume always completes. -/
def Obligations.SecondConsumeAnswersZero : Prop :=
  ∀ (s t u : State) (k : ButtonIndex) (c : Instr) (cmds : List Instr), s.WellFormed → k.toNat < s.cfg.n →
    c = .consumeRising k ∨ c = .consumeFalling k ∨ c = .consumeChanged k →
    exec c s = .next t → Instr.update ∉ cmds → runCommands cmds t = some u →
    ∃ v, exec c u = .next v ∧ v.rsp = some 0x0000#16

/-- R64: two `READ`s, on the same button or on two, answer the same and leave the same state in either order. -/
def Obligations.ReadsCommute : Prop :=
  ∀ (s : State) (i j : ButtonIndex), ∃ a b : Word,
    exec (.read i) s = .next { s with rsp := some a } ∧
    exec (.read j) { s with rsp := some a } = .next { s with rsp := some b } ∧
    exec (.read j) s = .next { s with rsp := some b } ∧
    exec (.read i) { s with rsp := some b } = .next { s with rsp := some a }

/-! ### The event queue -/

/-- R131 on the ring: the event goes to slot `back`; on a full queue `front` advances and the count stays 8. -/
def Obligations.PushWritesTheBackSlot : Prop :=
  ∀ (ev : Event) (q : Queue),
    (q.push ev).buf.get (slot q.back) = ev ∧
    (∀ k, k ≠ q.back → (q.push ev).buf.get (slot k) = q.buf.get (slot k)) ∧
    (q.push ev).back = q.back + 1 ∧
    (q.count = 8 → (q.push ev).front = q.front + 1 ∧ (q.push ev).count = 8) ∧
    (q.count ≠ 8 → (q.push ev).front = q.front ∧ (q.push ev).count = q.count + 1)

/-- R133: PUSH on the abstract queue, in both of the rule's forms. -/
def Obligations.PushAppendsToTheContent : Prop :=
  ∀ (ev : Event) (q : Queue), q.WellFormed →
    (q.content.length = 8 → (q.push ev).content = q.content.tail ++ [ev]) ∧
    (q.content.length ≠ 8 → (q.push ev).content = q.content ++ [ev]) ∧
    (q.push ev).content = (q.content ++ [ev]).drop ((q.content ++ [ev]).length - 8) ∧
    (q.push ev).WellFormed

/-- R132: `POP` on the ring, its response, and what it leaves alone. -/
def Obligations.PopTakesTheFrontSlot : Prop :=
  ∀ s : State, encode .pop = 0x3000#16 ∧
    (∀ w : Word, w.extractLsb' 12 4 = 3#4 → w ≠ 0x3000#16 → ∃ why, decode s.cfg.eventMode w = .illegal why) ∧
    (s.cfg.eventMode = .queue → s.q.count = 0 → exec .pop s = .next { s with rsp := some 0x0000#16 }) ∧
    (s.cfg.eventMode = .queue → s.q.count ≠ 0 → exec .pop s =
      .next { s with
        rsp := some (0x0800#16 + ((BitVec.ofBool (s.q.buf.get (slot s.q.front)).etype.bit).setWidth 16 <<< 8) +
          (s.q.buf.get (slot s.q.front)).btn.setWidth 16)
        q := { s.q with front := s.q.front + 1, count := s.q.count - 1 } }) ∧
    (s.cfg.eventMode ≠ .queue → exec .pop s = .next { s with rsp := some 0x4000#16 })

/-- R134: `POP` on the abstract queue. -/
def Obligations.PopTakesTheOldestEvent : Prop :=
  ∀ s : State, s.q.WellFormed → s.cfg.eventMode = .queue → ∃ t, exec .pop s = .next t ∧ t.q.WellFormed ∧
    (s.q.content = [] → t = { s with rsp := some 0x0000#16 }) ∧
    (∀ ev evs, s.q.content = ev :: evs → t.q.content = evs ∧ { t with q := s.q, rsp := s.rsp } = s ∧
      t.rsp = some (0x0800#16 + (ev.word).setWidth 16))

/-- R135: after a run of pushes the queue holds the most recent events, at most 8, in order; what is lost is counted. -/
def Obligations.OverflowKeepsTheMostRecent : Prop :=
  ∀ (q : Queue) (evs : List Event), q.WellFormed →
    (evs.foldl (fun q ev => q.push ev) q).content =
      (q.content ++ evs).drop ((q.content ++ evs).length - min 8 (q.content.length + evs.length)) ∧
    (evs.foldl (fun q ev => q.push ev) q).content.length = min 8 (q.content.length + evs.length) ∧
    (8 ≤ evs.length → (evs.foldl (fun q ev => q.push ev) q).content = evs.drop (evs.length - 8)) ∧
    (q.content ++ evs).length - (evs.foldl (fun q ev => q.push ev) q).content.length =
      q.content.length + evs.length - 8 ∧
    (evs.foldl (fun q ev => q.push ev) q).WellFormed

/-! ### The dispatcher -/

/-- R151: `INIT`, its refusals in their order, and what it does when the environment answers its reads (R201). -/
def Obligations.InitSeedsEveryButton : Prop :=
  ∀ s : State, s.WellFormed → encode .init = 0x1000#16 ∧
    (∀ w : Word, w.extractLsb' 12 4 = 1#4 → w ≠ 0x1000#16 → ∃ why, decode s.cfg.eventMode w = .illegal why) ∧
    (s.phase = .run → exec .init s = .next { s with rsp := some 0x2000#16 }) ∧
    (s.phase = .uninit → (s.cfg.n = 0 ∨ ∃ i < s.cfg.n, s.cfg.threshold i = 0) →
      exec .init s = .next { s with rsp := some 0x1000#16 }) ∧
    (s.phase = .uninit → 1 ≤ s.cfg.n → (∀ i < s.cfg.n, s.cfg.threshold i ≠ 0) → s.completes s.cfg.n = true →
      ∃ t, exec .init s = .next t ∧
      t.rsp = some 0x0000#16 ∧ t.phase = .run ∧
      (∀ i < s.cfg.n, t.button i =
        { counter := if s.answer i then s.cfg.threshold i else 0, current := s.answer i,
          rising := false, falling := false }) ∧
      t.ports = s.ports ++ (List.range s.cfg.n).map (fun i => .pinRead (s.cfg.pin i)) ∧
      t.pins = s.pins.drop s.cfg.n ∧
      t.q = s.q ∧ t.cfg = s.cfg ∧ t.host = s.host ∧ t.btn.length = s.btn.length ∧ t.busy = s.busy ∧
      t.stallAfter = s.stallAfter.map (· - s.cfg.n))

/-- R152: `INIT` in UNINIT succeeds, its reads being answered (R201), exactly when there is a button and every threshold
is at least 1. -/
def Obligations.InitSucceedsExactlyOnGoodConfig : Prop :=
  ∀ s : State, s.phase = .uninit → s.completes s.cfg.n = true →
    ((∃ t, exec .init s = .next t ∧ t.rsp = some 0x0000#16 ∧ t.phase = .run) ↔
      1 ≤ s.cfg.n ∧ ∀ i < s.cfg.n, 1 ≤ (s.cfg.threshold i).toNat)

/-- R154: `UPDATE` in queue mode, its reads being answered (R201). Each button is stepped by its own sample, its edge is
pushed, in ascending index. -/
def Obligations.UpdateTicksEveryButton : Prop :=
  ∀ s : State, s.WellFormed → s.cfg.eventMode = .queue → encode .update = 0x2000#16 ∧
    (∀ w : Word, w.extractLsb' 12 4 = 2#4 → w ≠ 0x2000#16 → ∃ why, decode s.cfg.eventMode w = .illegal why) ∧
    (s.phase = .uninit → exec .update s = .next { s with rsp := some 0x2000#16 }) ∧
    (s.phase = .run → (∀ i < s.cfg.n, s.cfg.threshold i ≠ 0) → s.completes s.cfg.n = true →
      ∃ t, exec .update s = .next t ∧
      t.rsp = some 0x0000#16 ∧
      (∀ i < s.cfg.n, t.button i = (Button.step (s.cfg.threshold i) (s.answer i) (s.button i)).1) ∧
      t.q = ((List.range s.cfg.n).filterMap fun i =>
          (Button.step (s.cfg.threshold i) (s.answer i) (s.button i)).2.map fun e =>
            { etype := e, btn := BitVec.ofNat 8 i : Event }).foldl (fun q ev => q.push ev) s.q ∧
      t.ports = s.ports ++ (List.range s.cfg.n).map (fun i => .pinRead (s.cfg.pin i)) ∧
      t.pins = s.pins.drop s.cfg.n ∧
      t.phase = .run ∧ t.cfg = s.cfg ∧ t.host = s.host ∧ t.btn.length = s.btn.length ∧ t.busy = s.busy ∧
      t.stallAfter = s.stallAfter.map (· - s.cfg.n))

/-- `UPDATE` in the two modes that are not this hardware (R158, R159): the buttons tick as in queue mode, the queue is
not touched; in callback mode each event is delivered before the next button's pin is read. The environment answers the
reads and accepts the events (R201). -/
def Obligations.UpdateOutsideQueueMode : Prop :=
  ∀ s : State, s.WellFormed → s.cfg.eventMode ≠ .queue →
    (s.phase = .uninit → exec .update s = .next { s with rsp := some 0x2000#16 }) ∧
    (s.phase = .run → (∀ i < s.cfg.n, s.cfg.threshold i ≠ 0) → s.completes s.tickPorts.length = true →
      ∃ t, exec .update s = .next t ∧
      t.rsp = some 0x0000#16 ∧
      (∀ i < s.cfg.n, t.button i = (Button.step (s.cfg.threshold i) (s.answer i) (s.button i)).1) ∧
      (s.cfg.eventMode = .callback → t.ports = s.ports ++ (List.range s.cfg.n).flatMap fun i =>
        .pinRead (s.cfg.pin i) ::
          ((Button.step (s.cfg.threshold i) (s.answer i) (s.button i)).2.toList.map fun e =>
            .deliver { etype := e, btn := BitVec.ofNat 8 i })) ∧
      (s.cfg.eventMode = .none →
        t.ports = s.ports ++ (List.range s.cfg.n).map (fun i => .pinRead (s.cfg.pin i))) ∧
      t.pins = s.pins.drop s.cfg.n ∧ t.q = s.q ∧
      t.phase = .run ∧ t.cfg = s.cfg ∧ t.host = s.host ∧ t.btn.length = s.btn.length ∧ t.busy = s.busy ∧
      t.stallAfter = s.stallAfter.map (· - s.tickPorts.length))

/-- The model's stop: in phase RUN with a zero threshold, which no run reaches, `UPDATE` faults, because STEP has no
meaning there (R110; log 8). -/
def Obligations.UpdateWithZeroThresholdStops : Prop :=
  ∀ (s : State) (i : Nat), s.phase = .run → i < s.cfg.n → s.cfg.threshold i = 0 →
    exec .update s = .fault .zeroThreshold

/-- R136 and R61: what an `UPDATE` that completes pushes, or delivers in callback mode, is a list of events in strictly
ascending button index, with an event of a button exactly when its level changed, to that event's level. -/
def Obligations.EventsOfATickAscend : Prop :=
  ∀ s t : State, s.WellFormed → s.phase = .run → exec .update s = .next t → t.busy = none →
    ∃ evs : List Event, s.Distributed t evs ∧ evs.Pairwise (fun a b => a.btn.toNat < b.btn.toNat) ∧
      (∀ ev ∈ evs, ev.btn.toNat < s.cfg.n) ∧
      (∀ j < s.cfg.n, ∀ e : EdgeType, { etype := e, btn := BitVec.ofNat 8 j : Event } ∈ evs ↔
        (s.button j).current ≠ e.bit ∧ (t.button j).current = e.bit)

/-- R155: what an `UPDATE` that completes makes of a button, and the edges it pushes or delivers for it, depend on that
button's own registers, threshold and sample and on nothing of any other button. -/
def Obligations.ButtonsDoNotAffectEachOther : Prop :=
  ∀ (s s' t t' : State) (j : Nat), s.WellFormed → s'.WellFormed → s.phase = .run → s'.phase = .run →
    j < s.cfg.n → j < s'.cfg.n →
    s.button j = s'.button j → s.cfg.threshold j = s'.cfg.threshold j → s.answer j = s'.answer j →
    exec .update s = .next t → exec .update s' = .next t' → t.busy = none → t'.busy = none →
    t.button j = t'.button j ∧
    ∃ evs evs' : List Event, s.Distributed t evs ∧ s'.Distributed t' evs' ∧
      evs.Pairwise (fun a b => a.btn.toNat < b.btn.toNat) ∧ evs'.Pairwise (fun a b => a.btn.toNat < b.btn.toNat) ∧
      edgesOf j evs = edgesOf j evs'

/-- R156 and R200: on a tick that completes, each flip of a level is latched in its direction, and the events that the
tick pushes onto the queue, or delivers in callback mode, hold for each button exactly the event of its flip. -/
def Obligations.FlipIsLatchedAndPushed : Prop :=
  ∀ s t : State, s.WellFormed → s.phase = .run → exec .update s = .next t → t.busy = none →
    (∃ evs : List Event, s.Distributed t evs ∧ (∀ ev ∈ evs, ev.btn.toNat < s.cfg.n) ∧
      ∀ j < s.cfg.n, edgesOf j evs =
        (if (s.button j).current = (t.button j).current then []
         else if (t.button j).current then [.rising] else [.falling])) ∧
    (∀ j < s.cfg.n,
      ((s.button j).current = false → (t.button j).current = true → (t.button j).rising = true) ∧
      ((s.button j).current = true → (t.button j).current = false → (t.button j).falling = true))

/-! ### Rules of the whole machine -/

/-- R25 and R26: what sets a latch and what clears it, over every command. -/
def Obligations.LatchesHaveTheirCauses : Prop :=
  ∀ (i : Instr) (s t : State) (j : Nat), s.WellFormed → j < s.cfg.n → exec i s = .next t →
    (i = .update →
      (t.button j).rising = ((s.button j).rising || (!(s.button j).current && (t.button j).current)) ∧
      (t.button j).falling = ((s.button j).falling || ((s.button j).current && !(t.button j).current))) ∧
    (i ≠ .update → ((t.button j).rising = true → (s.button j).rising = true) ∧
      ((t.button j).falling = true → (s.button j).falling = true)) ∧
    ((s.button j).rising = true → (t.button j).rising = false →
      i = .init ∨ ∃ k : ButtonIndex, k.toNat = j ∧ (i = .consumeRising k ∨ i = .consumeChanged k)) ∧
    ((s.button j).falling = true → (t.button j).falling = false →
      i = .init ∨ ∃ k : ButtonIndex, k.toNat = j ∧ (i = .consumeFalling k ∨ i = .consumeChanged k))

/-- Which command can write which field (R22, R24, R29, R31, R32, R51): counters and levels only `INIT` and `UPDATE`,
the ring and `back` only `UPDATE`, `front` and `count` only `UPDATE` and `POP`, another button's record than the one
addressed no indexed command. -/
def Obligations.FieldsAreWrittenByTheirCommands : Prop :=
  ∀ (i : Instr) (s t : State), exec i s = .next t →
    (∀ j, (t.button j).counter ≠ (s.button j).counter ∨ (t.button j).current ≠ (s.button j).current →
      i = .init ∨ i = .update) ∧
    (t.q.buf ≠ s.q.buf ∨ t.q.back ≠ s.q.back → i = .update) ∧
    (t.q.front ≠ s.q.front ∨ t.q.count ≠ s.q.count → i = .update ∨ i = .pop) ∧
    (∀ k j, i.index? = some k → j ≠ k.toNat → t.button j = s.button j) ∧
    (i = .pop → t.btn = s.btn)

/-- R58 and R61: how many pins a command reads, which, and in what order; a command that waits has read a first part of
them. That the answers it has taken stay listed until it ends (`pins` and `draws` as before) is the model's choice: log 4. -/
def Obligations.PinReadsPerCommand : Prop :=
  ∀ (i : Instr) (s t : State), exec i s = .next t →
    ∃ acts, t.ports = s.ports ++ acts ∧
      ((i = .init ∨ i = .update) → t.busy = none → t.rsp = some 0x0000#16 →
        acts.filter PortAction.isRead = (List.range s.cfg.n).map (fun k => .pinRead (s.cfg.pin k)) ∧
        t.pins = s.pins.drop s.cfg.n) ∧
      (s.busy = none → t.busy ≠ none →
        acts.filter PortAction.isRead <+: (List.range s.cfg.n).map (fun k => .pinRead (s.cfg.pin k)) ∧
        t.pins = s.pins ∧ t.draws = s.draws) ∧
      (t.busy = none → ¬((i = .init ∨ i = .update) ∧ t.rsp = some 0x0000#16) →
        acts = [] ∧ t.pins = s.pins ∧ t.draws = s.draws)

/-- R37: `phase` goes to RUN by a successful `INIT`, at once or after waiting, and by nothing else, and back to UNINIT by
reset and by nothing else. -/
def Obligations.PhaseChangesByInitAndReset : Prop :=
  Phase.uninit.bit = false ∧ Phase.run.bit = true ∧
  (∀ s t : State, step s = .next t → s.phase = .uninit → t.phase = .run →
    t.rsp = some 0x0000#16 ∧ ∃ rest, s.host = .command (encode .init) :: rest ∨
      ∃ e w, s.host = .environment e :: rest ∧ s.busy = some w ∧ w.command = .init) ∧
  (∀ s t : State, step s = .next t → s.phase = .run → t.phase = .uninit →
    ∃ rest, s.host = .reset :: rest ∨ ∃ w k, s.host = .resetDuring w k :: rest)

/-- R21: no step writes the configuration. -/
def Obligations.ConfigurationIsNeverWritten : Prop :=
  ∀ s t : State, step s = .next t → t.cfg = s.cfg

/-- Every step keeps the invariant: R22, R28, R34 and R195, with the UNINIT half of R192, and that only `INIT` and
`UPDATE` wait for the environment (R58, R201). -/
def Obligations.EveryStepKeepsTheInvariant : Prop :=
  ∀ s t : State, s.Inv → step s = .next t → t.Inv

/-- The invariant holds right after reset, on every legal configuration, and in `State.reset`. -/
def Obligations.ResetMeetsTheInvariant : Prop :=
  (∀ c : Config, c.WellFormed → (State.resetOf c).Inv) ∧ State.reset.Inv

/-- From a state that meets the invariant no step stops: the block has no undefined step (R170). -/
def Obligations.NoStepStopsUnderTheInvariant : Prop :=
  ∀ s : State, s.Inv → ∃ t, step s = .next t

/-- The queue stays in agreement with the levels: for each button the events held alternate strictly, and the newest
one's edge type is the button's level (R81, R113, R156). It holds at reset, and every step keeps it. -/
def Obligations.QueueStaysInAgreementWithLevels : Prop :=
  (∀ c : Config, (State.resetOf c).QueueAgrees) ∧
  (∀ s t : State, s.Inv → s.QueueAgrees → step s = .next t → t.QueueAgrees)

/-- VD's first property (R111, 95_test_vectors.md P1) through the command port, the environment doing its duty (R201): a
running button at the low rail whose next `T` samples are 1, `T` its threshold, is high with its rising latch set after
exactly `T` `UPDATE` words, and low until then. -/
def Obligations.ThresholdUpdatesRaiseAButton : Prop :=
  ∀ (s : State) (j : Nat) (rest : List HostInput), s.Inv → s.phase = .run → s.busy = none → s.stallAfter = none →
    j < s.cfg.n → (s.button j).counter = 0 →
    s.host = List.replicate (s.cfg.threshold j).toNat (.command 0x2000#16) ++ rest →
    (∀ m < (s.cfg.threshold j).toNat, s.answer (m * s.cfg.n + j) = true) →
    (∃ t, runSteps (s.cfg.threshold j).toNat s = some t ∧ t.host = rest ∧
      t.button j = { counter := s.cfg.threshold j, current := true, rising := true,
                     falling := (s.button j).falling }) ∧
    (∀ m < (s.cfg.threshold j).toNat, ∃ u, runSteps m s = some u ∧ (u.button j).counter.toNat = m ∧
      (u.button j).current = false ∧ (u.button j).rising = (s.button j).rising)

/-! ### Waiting for the environment -/

/-- R85, R201 and U11: an `INIT` or `UPDATE` of which the environment leaves a port action open waits. It has made the
port actions before that one and gives no response. No other command ever waits. That it has written no block state yet
is the model's reading of atomicity, DEDUCED, and `stallAfter` and `busy` are the model's own fields: log 5. -/
def Obligations.CommandsWaitForTheEnvironment : Prop :=
  (∀ (i : Instr) (s : State), s.UsesPorts i →
    (s.completes (s.actionsOf i).length = true → ∃ t, exec i s = .next t ∧ t.rsp = some 0x0000#16 ∧ t.busy = s.busy ∧
      t.ports = s.ports ++ s.actionsOf i) ∧
    (∀ k, s.stallAfter = some k → k < (s.actionsOf i).length →
      exec i s = .next { s with
        ports := s.ports ++ (s.actionsOf i).take k
        stallAfter := some 0
        busy := some { command := i, done := (s.actionsOf i).take k } })) ∧
  (∀ (i : Instr) (s t : State), ¬ s.UsesPorts i → exec i s = .next t →
    t.busy = s.busy ∧ t.stallAfter = s.stallAfter ∧ t.ports = s.ports)

/-- U11: a block with a waiting command takes no word at its port and stays as it is; what the environment completes is
added to what it had completed, and the command is executed with that much; that it goes on by an input is the model's
choice: log 5. -/
def Obligations.WaitingBlockIsStuckUntilServed : Prop :=
  ∀ (s : State) (w : Waiting), s.busy = some w →
    (s.host = [] → step s = .next s) ∧
    (∀ word rest, s.host = .command word :: rest → step s = .next s) ∧
    (∀ word k rest, s.host = .resetDuring word k :: rest → step s = .next s) ∧
    (∀ e rest, s.host = .environment e :: rest →
      step s = exec w.command { s with
        host := rest
        rsp := none
        ports := []
        busy := none
        stallAfter := e.map (· + w.done.length) })

/-- R85, R199 and U11: a command that had to wait ends as it would have ended had the environment completed from the
start what it completed in both parts; and when it completes all, the command is answered. -/
def Obligations.WaitingEndsAsIfServedAtOnce : Prop :=
  ∀ (s t : State) (word : Word) (w : Waiting) (e : Option Nat) (rest : List HostInput),
    s.busy = none → s.host = .command word :: .environment e :: rest → step s = .next t → t.busy = some w →
    step t = step { s with host := .command word :: rest, stallAfter := e.map (· + w.done.length) } ∧
    (s.Inv → e = none → ∃ u, step t = .next u ∧ u.rsp = some 0x0000#16 ∧ u.busy = none ∧ u.host = rest)
end

