-- ==== Sys2Proof/Laws/State.lean ====
section
/-! SUPPORT. One lemma per field per named update of the state, and what the accessors read after each. -/

namespace Sys2Proof.Machine


/-! ### After `setRsp` -/

@[simp] theorem State.setRsp_cfg (s : State) (w : Word) : (s.setRsp w).cfg = s.cfg := rfl
@[simp] theorem State.setRsp_btn (s : State) (w : Word) : (s.setRsp w).btn = s.btn := rfl
@[simp] theorem State.setRsp_q (s : State) (w : Word) : (s.setRsp w).q = s.q := rfl
@[simp] theorem State.setRsp_phase (s : State) (w : Word) : (s.setRsp w).phase = s.phase := rfl
@[simp] theorem State.setRsp_rsp (s : State) (w : Word) : (s.setRsp w).rsp = some w := rfl
@[simp] theorem State.setRsp_ports (s : State) (w : Word) : (s.setRsp w).ports = s.ports := rfl
@[simp] theorem State.setRsp_host (s : State) (w : Word) : (s.setRsp w).host = s.host := rfl
@[simp] theorem State.setRsp_pins (s : State) (w : Word) : (s.setRsp w).pins = s.pins := rfl
@[simp] theorem State.setRsp_draws (s : State) (w : Word) : (s.setRsp w).draws = s.draws := rfl
@[simp] theorem State.setRsp_stallAfter (s : State) (w : Word) : (s.setRsp w).stallAfter = s.stallAfter := rfl
@[simp] theorem State.setRsp_busy (s : State) (w : Word) : (s.setRsp w).busy = s.busy := rfl
@[simp] theorem State.setRsp_button (s : State) (w : Word) (j : Nat) : (s.setRsp w).button j = s.button j := rfl
@[simp] theorem State.setRsp_answer (s : State) (w : Word) (j : Nat) : (s.setRsp w).answer j = s.answer j := rfl
@[simp] theorem State.setRsp_hasButton (s : State) (w : Word) (j : ButtonIndex) : (s.setRsp w).hasButton j = s.hasButton j := rfl

/-! ### After `logPort` -/

@[simp] theorem State.logPort_cfg (s : State) (a : PortAction) : (s.logPort a).cfg = s.cfg := rfl
@[simp] theorem State.logPort_btn (s : State) (a : PortAction) : (s.logPort a).btn = s.btn := rfl
@[simp] theorem State.logPort_q (s : State) (a : PortAction) : (s.logPort a).q = s.q := rfl
@[simp] theorem State.logPort_phase (s : State) (a : PortAction) : (s.logPort a).phase = s.phase := rfl
@[simp] theorem State.logPort_rsp (s : State) (a : PortAction) : (s.logPort a).rsp = s.rsp := rfl
@[simp] theorem State.logPort_ports (s : State) (a : PortAction) : (s.logPort a).ports = s.ports ++ [a] := rfl
@[simp] theorem State.logPort_host (s : State) (a : PortAction) : (s.logPort a).host = s.host := rfl
@[simp] theorem State.logPort_pins (s : State) (a : PortAction) : (s.logPort a).pins = s.pins := rfl
@[simp] theorem State.logPort_draws (s : State) (a : PortAction) : (s.logPort a).draws = s.draws := rfl
@[simp] theorem State.logPort_stallAfter (s : State) (a : PortAction) : (s.logPort a).stallAfter = s.stallAfter := rfl
@[simp] theorem State.logPort_busy (s : State) (a : PortAction) : (s.logPort a).busy = s.busy := rfl
@[simp] theorem State.logPort_button (s : State) (a : PortAction) (j : Nat) : (s.logPort a).button j = s.button j := rfl
@[simp] theorem State.logPort_answer (s : State) (a : PortAction) (j : Nat) : (s.logPort a).answer j = s.answer j := rfl
@[simp] theorem State.logPort_hasButton (s : State) (a : PortAction) (j : ButtonIndex) : (s.logPort a).hasButton j = s.hasButton j := rfl

/-! ### After `skipAnswers` -/

@[simp] theorem State.skipAnswers_cfg (s : State) (k : Nat) : (s.skipAnswers k).cfg = s.cfg := rfl
@[simp] theorem State.skipAnswers_btn (s : State) (k : Nat) : (s.skipAnswers k).btn = s.btn := rfl
@[simp] theorem State.skipAnswers_q (s : State) (k : Nat) : (s.skipAnswers k).q = s.q := rfl
@[simp] theorem State.skipAnswers_phase (s : State) (k : Nat) : (s.skipAnswers k).phase = s.phase := rfl
@[simp] theorem State.skipAnswers_rsp (s : State) (k : Nat) : (s.skipAnswers k).rsp = s.rsp := rfl
@[simp] theorem State.skipAnswers_ports (s : State) (k : Nat) : (s.skipAnswers k).ports = s.ports := rfl
@[simp] theorem State.skipAnswers_host (s : State) (k : Nat) : (s.skipAnswers k).host = s.host := rfl
@[simp] theorem State.skipAnswers_pins (s : State) (k : Nat) : (s.skipAnswers k).pins = s.pins.drop k := rfl
@[simp] theorem State.skipAnswers_draws (s : State) (k : Nat) : (s.skipAnswers k).draws = s.draws + (k - s.pins.length) := rfl
@[simp] theorem State.skipAnswers_stallAfter (s : State) (k : Nat) : (s.skipAnswers k).stallAfter = s.stallAfter := rfl
@[simp] theorem State.skipAnswers_busy (s : State) (k : Nat) : (s.skipAnswers k).busy = s.busy := rfl
@[simp] theorem State.skipAnswers_button (s : State) (k : Nat) (j : Nat) : (s.skipAnswers k).button j = s.button j := rfl
@[simp] theorem State.skipAnswers_hasButton (s : State) (k : Nat) (j : ButtonIndex) : (s.skipAnswers k).hasButton j = s.hasButton j := rfl

/-! ### After `setQueue` -/

@[simp] theorem State.setQueue_cfg (s : State) (q : Queue) : (s.setQueue q).cfg = s.cfg := rfl
@[simp] theorem State.setQueue_btn (s : State) (q : Queue) : (s.setQueue q).btn = s.btn := rfl
@[simp] theorem State.setQueue_q (s : State) (q : Queue) : (s.setQueue q).q = q := rfl
@[simp] theorem State.setQueue_phase (s : State) (q : Queue) : (s.setQueue q).phase = s.phase := rfl
@[simp] theorem State.setQueue_rsp (s : State) (q : Queue) : (s.setQueue q).rsp = s.rsp := rfl
@[simp] theorem State.setQueue_ports (s : State) (q : Queue) : (s.setQueue q).ports = s.ports := rfl
@[simp] theorem State.setQueue_host (s : State) (q : Queue) : (s.setQueue q).host = s.host := rfl
@[simp] theorem State.setQueue_pins (s : State) (q : Queue) : (s.setQueue q).pins = s.pins := rfl
@[simp] theorem State.setQueue_draws (s : State) (q : Queue) : (s.setQueue q).draws = s.draws := rfl
@[simp] theorem State.setQueue_stallAfter (s : State) (q : Queue) : (s.setQueue q).stallAfter = s.stallAfter := rfl
@[simp] theorem State.setQueue_busy (s : State) (q : Queue) : (s.setQueue q).busy = s.busy := rfl
@[simp] theorem State.setQueue_button (s : State) (q : Queue) (j : Nat) : (s.setQueue q).button j = s.button j := rfl
@[simp] theorem State.setQueue_answer (s : State) (q : Queue) (j : Nat) : (s.setQueue q).answer j = s.answer j := rfl
@[simp] theorem State.setQueue_hasButton (s : State) (q : Queue) (j : ButtonIndex) : (s.setQueue q).hasButton j = s.hasButton j := rfl

/-! ### After `setPhase` -/

@[simp] theorem State.setPhase_cfg (s : State) (p : Phase) : (s.setPhase p).cfg = s.cfg := rfl
@[simp] theorem State.setPhase_btn (s : State) (p : Phase) : (s.setPhase p).btn = s.btn := rfl
@[simp] theorem State.setPhase_q (s : State) (p : Phase) : (s.setPhase p).q = s.q := rfl
@[simp] theorem State.setPhase_phase (s : State) (p : Phase) : (s.setPhase p).phase = p := rfl
@[simp] theorem State.setPhase_rsp (s : State) (p : Phase) : (s.setPhase p).rsp = s.rsp := rfl
@[simp] theorem State.setPhase_ports (s : State) (p : Phase) : (s.setPhase p).ports = s.ports := rfl
@[simp] theorem State.setPhase_host (s : State) (p : Phase) : (s.setPhase p).host = s.host := rfl
@[simp] theorem State.setPhase_pins (s : State) (p : Phase) : (s.setPhase p).pins = s.pins := rfl
@[simp] theorem State.setPhase_draws (s : State) (p : Phase) : (s.setPhase p).draws = s.draws := rfl
@[simp] theorem State.setPhase_stallAfter (s : State) (p : Phase) : (s.setPhase p).stallAfter = s.stallAfter := rfl
@[simp] theorem State.setPhase_busy (s : State) (p : Phase) : (s.setPhase p).busy = s.busy := rfl
@[simp] theorem State.setPhase_button (s : State) (p : Phase) (j : Nat) : (s.setPhase p).button j = s.button j := rfl
@[simp] theorem State.setPhase_answer (s : State) (p : Phase) (j : Nat) : (s.setPhase p).answer j = s.answer j := rfl
@[simp] theorem State.setPhase_hasButton (s : State) (p : Phase) (j : ButtonIndex) : (s.setPhase p).hasButton j = s.hasButton j := rfl

/-! ### After `setButton` -/

@[simp] theorem State.setButton_cfg (s : State) (i : Nat) (b : Button) : (s.setButton i b).cfg = s.cfg := rfl
@[simp] theorem State.setButton_btn (s : State) (i : Nat) (b : Button) : (s.setButton i b).btn = s.btn.set i b := rfl
@[simp] theorem State.setButton_q (s : State) (i : Nat) (b : Button) : (s.setButton i b).q = s.q := rfl
@[simp] theorem State.setButton_phase (s : State) (i : Nat) (b : Button) : (s.setButton i b).phase = s.phase := rfl
@[simp] theorem State.setButton_rsp (s : State) (i : Nat) (b : Button) : (s.setButton i b).rsp = s.rsp := rfl
@[simp] theorem State.setButton_ports (s : State) (i : Nat) (b : Button) : (s.setButton i b).ports = s.ports := rfl
@[simp] theorem State.setButton_host (s : State) (i : Nat) (b : Button) : (s.setButton i b).host = s.host := rfl
@[simp] theorem State.setButton_pins (s : State) (i : Nat) (b : Button) : (s.setButton i b).pins = s.pins := rfl
@[simp] theorem State.setButton_draws (s : State) (i : Nat) (b : Button) : (s.setButton i b).draws = s.draws := rfl
@[simp] theorem State.setButton_stallAfter (s : State) (i : Nat) (b : Button) : (s.setButton i b).stallAfter = s.stallAfter := rfl
@[simp] theorem State.setButton_busy (s : State) (i : Nat) (b : Button) : (s.setButton i b).busy = s.busy := rfl
@[simp] theorem State.setButton_answer (s : State) (i : Nat) (b : Button) (j : Nat) : (s.setButton i b).answer j = s.answer j := rfl
@[simp] theorem State.setButton_hasButton (s : State) (i : Nat) (b : Button) (j : ButtonIndex) : (s.setButton i b).hasButton j = s.hasButton j := rfl

/-! ### After `accept` -/

@[simp] theorem State.accept_cfg (s : State) (rest : List HostInput) : (s.accept rest).cfg = s.cfg := rfl
@[simp] theorem State.accept_btn (s : State) (rest : List HostInput) : (s.accept rest).btn = s.btn := rfl
@[simp] theorem State.accept_q (s : State) (rest : List HostInput) : (s.accept rest).q = s.q := rfl
@[simp] theorem State.accept_phase (s : State) (rest : List HostInput) : (s.accept rest).phase = s.phase := rfl
@[simp] theorem State.accept_rsp (s : State) (rest : List HostInput) : (s.accept rest).rsp = none := rfl
@[simp] theorem State.accept_ports (s : State) (rest : List HostInput) : (s.accept rest).ports = [] := rfl
@[simp] theorem State.accept_host (s : State) (rest : List HostInput) : (s.accept rest).host = rest := rfl
@[simp] theorem State.accept_pins (s : State) (rest : List HostInput) : (s.accept rest).pins = s.pins := rfl
@[simp] theorem State.accept_draws (s : State) (rest : List HostInput) : (s.accept rest).draws = s.draws := rfl
@[simp] theorem State.accept_stallAfter (s : State) (rest : List HostInput) : (s.accept rest).stallAfter = s.stallAfter := rfl
@[simp] theorem State.accept_busy (s : State) (rest : List HostInput) : (s.accept rest).busy = s.busy := rfl
@[simp] theorem State.accept_button (s : State) (rest : List HostInput) (j : Nat) : (s.accept rest).button j = s.button j := rfl
@[simp] theorem State.accept_answer (s : State) (rest : List HostInput) (j : Nat) : (s.accept rest).answer j = s.answer j := rfl
@[simp] theorem State.accept_hasButton (s : State) (rest : List HostInput) (j : ButtonIndex) : (s.accept rest).hasButton j = s.hasButton j := rfl

/-! ### After `presentWord` -/

@[simp] theorem State.presentWord_cfg (s : State) (w : Word) : (s.presentWord w).cfg = s.cfg := rfl
@[simp] theorem State.presentWord_btn (s : State) (w : Word) : (s.presentWord w).btn = s.btn := rfl
@[simp] theorem State.presentWord_q (s : State) (w : Word) : (s.presentWord w).q = s.q := rfl
@[simp] theorem State.presentWord_phase (s : State) (w : Word) : (s.presentWord w).phase = s.phase := rfl
@[simp] theorem State.presentWord_rsp (s : State) (w : Word) : (s.presentWord w).rsp = s.rsp := rfl
@[simp] theorem State.presentWord_ports (s : State) (w : Word) : (s.presentWord w).ports = s.ports := rfl
@[simp] theorem State.presentWord_host (s : State) (w : Word) : (s.presentWord w).host = .command w :: s.host := rfl
@[simp] theorem State.presentWord_pins (s : State) (w : Word) : (s.presentWord w).pins = s.pins := rfl
@[simp] theorem State.presentWord_draws (s : State) (w : Word) : (s.presentWord w).draws = s.draws := rfl
@[simp] theorem State.presentWord_stallAfter (s : State) (w : Word) : (s.presentWord w).stallAfter = s.stallAfter := rfl
@[simp] theorem State.presentWord_busy (s : State) (w : Word) : (s.presentWord w).busy = none := rfl
@[simp] theorem State.presentWord_button (s : State) (w : Word) (j : Nat) : (s.presentWord w).button j = s.button j := rfl
@[simp] theorem State.presentWord_answer (s : State) (w : Word) (j : Nat) : (s.presentWord w).answer j = s.answer j := rfl
@[simp] theorem State.presentWord_hasButton (s : State) (w : Word) (j : ButtonIndex) : (s.presentWord w).hasButton j = s.hasButton j := rfl

/-! ### After `applyReset` -/

@[simp] theorem State.applyReset_cfg (s : State) : (s.applyReset).cfg = s.cfg := rfl
@[simp] theorem State.applyReset_btn (s : State) : (s.applyReset).btn = List.replicate s.cfg.n Button.reset := rfl
@[simp] theorem State.applyReset_q (s : State) : (s.applyReset).q = Queue.reset := rfl
@[simp] theorem State.applyReset_phase (s : State) : (s.applyReset).phase = .uninit := rfl
@[simp] theorem State.applyReset_rsp (s : State) : (s.applyReset).rsp = none := rfl
@[simp] theorem State.applyReset_ports (s : State) : (s.applyReset).ports = s.ports := rfl
@[simp] theorem State.applyReset_host (s : State) : (s.applyReset).host = s.host := rfl
@[simp] theorem State.applyReset_pins (s : State) : (s.applyReset).pins = s.pins.drop s.openReads := rfl
@[simp] theorem State.applyReset_draws (s : State) : (s.applyReset).draws = s.draws + (s.openReads - s.pins.length) := rfl
@[simp] theorem State.applyReset_stallAfter (s : State) : (s.applyReset).stallAfter = s.stallAfter := rfl
@[simp] theorem State.applyReset_busy (s : State) : (s.applyReset).busy = none := rfl
@[simp] theorem State.applyReset_hasButton (s : State) (j : ButtonIndex) : (s.applyReset).hasButton j = s.hasButton j := rfl

/-! ### After `spend` -/

@[simp] theorem State.spend_cfg (s : State) (k : Nat) : (s.spend k).cfg = s.cfg := rfl
@[simp] theorem State.spend_btn (s : State) (k : Nat) : (s.spend k).btn = s.btn := rfl
@[simp] theorem State.spend_q (s : State) (k : Nat) : (s.spend k).q = s.q := rfl
@[simp] theorem State.spend_phase (s : State) (k : Nat) : (s.spend k).phase = s.phase := rfl
@[simp] theorem State.spend_rsp (s : State) (k : Nat) : (s.spend k).rsp = s.rsp := rfl
@[simp] theorem State.spend_ports (s : State) (k : Nat) : (s.spend k).ports = s.ports := rfl
@[simp] theorem State.spend_host (s : State) (k : Nat) : (s.spend k).host = s.host := rfl
@[simp] theorem State.spend_pins (s : State) (k : Nat) : (s.spend k).pins = s.pins := rfl
@[simp] theorem State.spend_draws (s : State) (k : Nat) : (s.spend k).draws = s.draws := rfl
@[simp] theorem State.spend_stallAfter (s : State) (k : Nat) : (s.spend k).stallAfter = s.stallAfter.map (· - k) := rfl
@[simp] theorem State.spend_busy (s : State) (k : Nat) : (s.spend k).busy = s.busy := rfl
@[simp] theorem State.spend_button (s : State) (k : Nat) (j : Nat) : (s.spend k).button j = s.button j := rfl
@[simp] theorem State.spend_answer (s : State) (k : Nat) (j : Nat) : (s.spend k).answer j = s.answer j := rfl

/-! ### After `hang` -/

@[simp] theorem State.hang_cfg (s : State) (i : Instr) (done : List PortAction) : (s.hang i done).cfg = s.cfg := rfl
@[simp] theorem State.hang_btn (s : State) (i : Instr) (done : List PortAction) : (s.hang i done).btn = s.btn := rfl
@[simp] theorem State.hang_q (s : State) (i : Instr) (done : List PortAction) : (s.hang i done).q = s.q := rfl
@[simp] theorem State.hang_phase (s : State) (i : Instr) (done : List PortAction) : (s.hang i done).phase = s.phase := rfl
@[simp] theorem State.hang_rsp (s : State) (i : Instr) (done : List PortAction) : (s.hang i done).rsp = s.rsp := rfl
@[simp] theorem State.hang_ports (s : State) (i : Instr) (done : List PortAction) : (s.hang i done).ports = s.ports ++ done := rfl
@[simp] theorem State.hang_host (s : State) (i : Instr) (done : List PortAction) : (s.hang i done).host = s.host := rfl
@[simp] theorem State.hang_pins (s : State) (i : Instr) (done : List PortAction) : (s.hang i done).pins = s.pins := rfl
@[simp] theorem State.hang_draws (s : State) (i : Instr) (done : List PortAction) : (s.hang i done).draws = s.draws := rfl
@[simp] theorem State.hang_stallAfter (s : State) (i : Instr) (done : List PortAction) : (s.hang i done).stallAfter = some 0 := rfl
@[simp] theorem State.hang_busy (s : State) (i : Instr) (done : List PortAction) : (s.hang i done).busy = some { command := i, done := done } := rfl
@[simp] theorem State.hang_button (s : State) (i : Instr) (done : List PortAction) (j : Nat) : (s.hang i done).button j = s.button j := rfl
@[simp] theorem State.hang_answer (s : State) (i : Instr) (done : List PortAction) (j : Nat) : (s.hang i done).answer j = s.answer j := rfl

/-! ### The button table -/

theorem State.button_setButton_self (s : State) {i : Nat} (b : Button) (h : i < s.btn.length) :
    (s.setButton i b).button i = b := by
  simp [State.button, State.setButton, List.getD, h]

theorem State.button_setButton_ne (s : State) {i j : Nat} (b : Button) (h : i ≠ j) :
    (s.setButton i b).button j = s.button j := by
  simp [State.button, State.setButton, List.getD, h]

@[simp] theorem State.hasButton_eq_true (s : State) (i : ButtonIndex) :
    s.hasButton i = true ↔ i.toNat < s.cfg.n := by
  simp [State.hasButton]

theorem State.button_applyReset (s : State) (j : Nat) : s.applyReset.button j = Button.reset := by
  simp only [State.button, State.applyReset_btn, List.getD, List.getElem?_replicate]
  split <;> rfl

theorem State.button_resetOf (c : Config) (j : Nat) : (State.resetOf c).button j = Button.reset := by
  simp only [State.button, State.resetOf, List.getD, List.getElem?_replicate]
  split <;> rfl

end Sys2Proof.Machine
end

