-- ==== Sys2Proof/Laws/Integrator.lean ====
section
/-! SUPPORT. SEED and STEP on one button: counter, level, latches, result, and the settled invariant. -/

namespace Sys2Proof.Machine

/-! ### The counter -/

theorem countUp_toNat {T c : Count} (h : c ≤ T) : (countUp T c).toNat = min (c.toNat + 1) T.toNat := by
  have h' : c.toNat ≤ T.toNat := h
  have hT : T.toNat < 256 := T.isLt
  unfold countUp
  split
  · rename_i hlt
    have hlt' : c.toNat < T.toNat := hlt
    simp [BitVec.toNat_add, CW]
    omega
  · rename_i hlt
    have hlt' : ¬ c.toNat < T.toNat := hlt
    omega

theorem countDown_toNat (c : Count) : (countDown c).toNat = c.toNat - 1 := by
  have hc : c.toNat < 256 := c.isLt
  unfold countDown
  split
  · rename_i hgt
    have hgt' : 0 < c.toNat := by simpa [BitVec.lt_def] using hgt
    simp [BitVec.toNat_sub, CW]
    omega
  · rename_i hgt
    have hgt' : ¬ 0 < c.toNat := by simpa [BitVec.lt_def] using hgt
    omega

theorem countUp_le {T c : Count} (h : c ≤ T) : countUp T c ≤ T := by
  show (countUp T c).toNat ≤ T.toNat
  rw [countUp_toNat h]
  exact Nat.min_le_right _ _

theorem countDown_le {T c : Count} (h : c ≤ T) : countDown c ≤ T := by
  have h' : c.toNat ≤ T.toNat := h
  show (countDown c).toNat ≤ T.toNat
  rw [countDown_toNat]
  omega

/-! ### STEP: its four cases, then field by field -/

/-- Everything STEP can do (R102): a rising flip, an up-sample without one, a falling flip, a down-sample without one. -/
theorem Button.step_cases {T : Count} (hT : T ≠ 0) (a : Bool) (b : Button) :
    (a = true ∧ countUp T b.counter = T ∧ b.current = false ∧
      Button.step T a b = ({ b with counter := T, current := true, rising := true }, some .rising)) ∨
    (a = true ∧ ¬(countUp T b.counter = T ∧ b.current = false) ∧
      Button.step T a b = ({ b with counter := countUp T b.counter }, none)) ∨
    (a = false ∧ countDown b.counter = 0 ∧ b.current = true ∧
      Button.step T a b = ({ b with counter := 0, current := false, falling := true }, some .falling)) ∨
    (a = false ∧ ¬(countDown b.counter = 0 ∧ b.current = true) ∧
      Button.step T a b = ({ b with counter := countDown b.counter }, none)) := by
  unfold Button.step
  rw [if_neg hT]
  cases a
  · by_cases h : countDown b.counter = 0 ∧ b.current = true
    · exact .inr (.inr (.inl ⟨rfl, h.1, h.2, by simp [h]⟩))
    · exact .inr (.inr (.inr ⟨rfl, h, by simp only [if_neg h]; rfl⟩))
  · by_cases h : countUp T b.counter = T ∧ b.current = false
    · exact .inl ⟨rfl, h.1, h.2, by simp [h]⟩
    · exact .inr (.inl ⟨rfl, h, by simp only [if_neg h]; rfl⟩)

theorem Button.step_counter {T : Count} (hT : T ≠ 0) (a : Bool) (b : Button) :
    (Button.step T a b).1.counter = if a then countUp T b.counter else countDown b.counter := by
  rcases Button.step_cases hT a b with ⟨rfl, h, -, e⟩ | ⟨rfl, -, e⟩ | ⟨rfl, h, -, e⟩ | ⟨rfl, -, e⟩ <;> simp [*]

/-- When STEP signals which edge. -/
theorem Button.step_edge {T : Count} (hT : T ≠ 0) (a : Bool) (b : Button) :
    (Button.step T a b).2 =
      if a = true ∧ countUp T b.counter = T ∧ b.current = false then some .rising
      else if a = false ∧ countDown b.counter = 0 ∧ b.current = true then some .falling
      else none := by
  rcases Button.step_cases hT a b with ⟨rfl, h, h', e⟩ | ⟨rfl, h, e⟩ | ⟨rfl, h, h', e⟩ | ⟨rfl, h, e⟩ <;>
    simp only [e] <;> simp_all

/-- The level follows the edge and nothing else. -/
theorem Button.step_current {T : Count} (hT : T ≠ 0) (a : Bool) (b : Button) :
    (Button.step T a b).1.current = ((Button.step T a b).2.map EdgeType.bit).getD b.current := by
  rcases Button.step_cases hT a b with ⟨rfl, -, -, e⟩ | ⟨rfl, -, e⟩ | ⟨rfl, -, -, e⟩ | ⟨rfl, -, e⟩ <;>
    simp [e, EdgeType.bit]

/-- An edge is a change of the level. -/
theorem Button.step_edge_flips {T : Count} (hT : T ≠ 0) {a : Bool} {b : Button} {e : EdgeType}
    (h : (Button.step T a b).2 = some e) : b.current = !e.bit := by
  rw [Button.step_edge hT] at h
  split at h
  · cases h; simp_all [EdgeType.bit]
  · split at h
    · cases h; simp_all [EdgeType.bit]
    · cases h

/-- The rising latch: set by a rising edge, kept otherwise (R25). -/
theorem Button.step_rising {T : Count} (hT : T ≠ 0) (a : Bool) (b : Button) :
    (Button.step T a b).1.rising = (b.rising || (Button.step T a b).2 == some .rising) := by
  rcases Button.step_cases hT a b with ⟨rfl, -, -, e⟩ | ⟨rfl, -, e⟩ | ⟨rfl, -, -, e⟩ | ⟨rfl, -, e⟩ <;> simp [e]

/-- The falling latch: set by a falling edge, kept otherwise (R26). -/
theorem Button.step_falling {T : Count} (hT : T ≠ 0) (a : Bool) (b : Button) :
    (Button.step T a b).1.falling = (b.falling || (Button.step T a b).2 == some .falling) := by
  rcases Button.step_cases hT a b with ⟨rfl, -, -, e⟩ | ⟨rfl, -, e⟩ | ⟨rfl, -, -, e⟩ | ⟨rfl, -, e⟩ <;> simp [e]

/-! ### Settled buttons -/

theorem Button.seed_settled {T : Count} (h : T ≠ 0) (a : Bool) : (Button.seed T a).Settled T := by
  cases a
  · exact ⟨Nat.zero_le _, fun e => absurd e.symm h, fun _ => rfl⟩
  · exact ⟨BitVec.le_refl T, fun _ => rfl, fun e => absurd e h⟩

theorem Button.step_settled {T : Count} (hT : T ≠ 0) (a : Bool) {b : Button} (h : b.Settled T) :
    (Button.step T a b).1.Settled T := by
  obtain ⟨hle, -, -⟩ := h
  have hT' : T.toNat ≠ 0 := fun e => hT (BitVec.eq_of_toNat_eq (by simpa using e))
  have hle' : b.counter.toNat ≤ T.toNat := hle
  refine ⟨?_, ?_, ?_⟩
  · rw [Button.step_counter hT]
    cases a
    · exact countDown_le hle
    · exact countUp_le hle
  · rw [Button.step_counter hT, Button.step_current hT, Button.step_edge hT]
    cases a
    · intro e
      have := congrArg BitVec.toNat e
      simp [countDown_toNat] at this
      omega
    · intro e
      simp only [if_true] at e
      cases hcur : b.current <;> simp [e, EdgeType.bit]
  · rw [Button.step_counter hT, Button.step_current hT, Button.step_edge hT]
    cases a
    · intro e
      simp only [Bool.false_eq_true, if_false] at e
      cases hcur : b.current <;> simp [e, EdgeType.bit]
    · intro e
      have := congrArg BitVec.toNat e
      simp [countUp_toNat hle] at this
      omega

end Sys2Proof.Machine
end

