-- ==== Sys2Proof/Laws/Queue.lean ====
section
/-! SUPPORT. The event queue: its abstract content, and what PUSH and POP make of it. -/

namespace Sys2Proof.Machine

theorem slot_val (x : BitVec QIW) : (slot x).val = x.toNat := rfl

/-- The ring index `j` places after `x`. -/
theorem ringIndex_toNat (x : BitVec QIW) (j : Nat) : (x + BitVec.ofNat QIW j).toNat = (x.toNat + j) % 8 := by
  simp [BitVec.toNat_add, QIW]

/-- The event `j` places behind the oldest. -/
def Queue.at (q : Queue) (j : Nat) : Event := q.buf.get (slot (q.front + BitVec.ofNat QIW j))

@[simp] theorem Queue.content_length (q : Queue) : q.content.length = q.count.toNat := by
  simp [Queue.content]

theorem Queue.content_getElem (q : Queue) (j : Nat) (h : j < q.content.length) : q.content[j] = q.at j := by
  simp [Queue.content, Queue.at]

theorem Queue.content_eq_nil (q : Queue) : q.content = [] ↔ q.count = 0 := by
  rw [← List.length_eq_zero_iff, Queue.content_length]
  constructor
  · intro h; exact BitVec.eq_of_toNat_eq h
  · intro h; simp [h]

theorem Queue.full_eq_true (q : Queue) : q.full = true ↔ q.count.toNat = 8 := by
  simp only [Queue.full, beq_iff_eq]
  constructor
  · intro h; simp [h, QCAP]
  · intro h; exact BitVec.eq_of_toNat_eq (by simpa [QCAP] using h)

@[simp] theorem Queue.reset_content : Queue.reset.content = [] := by decide

theorem Queue.reset_wellFormed : Queue.reset.WellFormed := by decide

/-! ### PUSH -/

@[simp] theorem Queue.push_back (ev : Event) (q : Queue) : (q.push ev).back = q.back + 1 := rfl

/-- Reading a slot after a push: the new event at the old `back`, the old event elsewhere. -/
theorem Queue.push_buf_get (ev : Event) (q : Queue) (x : BitVec QIW) :
    (q.push ev).buf.get (slot x) = if x = q.back then ev else q.buf.get (slot x) := by
  simp only [Queue.push, Vector.get_eq_getElem, Vector.getElem_set, slot_val, BitVec.toNat_inj]
  by_cases h : x = q.back <;> simp [h, eq_comm]

theorem Queue.push_count (ev : Event) (q : Queue) (h : q.WellFormed) :
    (q.push ev).count.toNat = if q.full then 8 else q.count.toNat + 1 := by
  have hc : q.count.toNat ≤ 8 := h.1
  by_cases hf : q.full = true
  · have := (Queue.full_eq_true q).1 hf
    simp [Queue.push, hf, this]
  · have : q.count.toNat ≠ 8 := fun e => hf ((Queue.full_eq_true q).2 e)
    simp [Queue.push, hf, BitVec.toNat_add]
    omega

theorem Queue.push_front (ev : Event) (q : Queue) :
    (q.push ev).front = if q.full then q.front + 1 else q.front := rfl

theorem Queue.push_wellFormed (ev : Event) (q : Queue) (h : q.WellFormed) : (q.push ev).WellFormed := by
  have hc : q.count.toNat ≤ 8 := h.1
  refine ⟨?_, ?_⟩
  · rw [Queue.push_count ev q h]
    split
    · exact Nat.le_refl 8
    · rename_i hf
      have : q.count.toNat ≠ 8 := fun e => hf ((Queue.full_eq_true q).2 e)
      show _ ≤ 8
      omega
  · rw [Queue.push_back, Queue.push_count ev q h, Queue.push_front, h.2]
    apply BitVec.eq_of_toNat_eq
    split
    · rename_i hf
      have := (Queue.full_eq_true q).1 hf
      simp [BitVec.toNat_add, QIW, this]
    · simp [BitVec.toNat_add, QIW]
      omega

/-- PUSH appends the event, and on a full queue the oldest one goes (R131 on the content of R35). -/
theorem Queue.content_push (ev : Event) (q : Queue) (h : q.WellFormed) :
    (q.push ev).content = (q.content ++ [ev]).drop (if q.full then 1 else 0) := by
  have hc : q.count.toNat ≤ 8 := h.1
  have hb : q.back.toNat = (q.front.toNat + q.count.toNat) % 8 := by
    have := congrArg BitVec.toNat h.2
    rwa [ringIndex_toNat] at this
  have hfr : q.front.toNat < 8 := q.front.isLt
  apply List.ext_getElem
  · rw [Queue.content_length, Queue.push_count ev q h, List.length_drop]
    simp only [List.length_append, Queue.content_length, List.length_singleton]
    split
    · have := (Queue.full_eq_true q).1 (by assumption); omega
    · omega
  · intro j h1 h2
    rw [Queue.content_getElem, Queue.at, Queue.push_buf_get, Queue.push_front, List.getElem_drop]
    rw [Queue.content_length, Queue.push_count ev q h] at h1
    rw [List.getElem_append]
    simp only [← BitVec.toNat_inj, ringIndex_toNat, hb, Queue.content_length]
    by_cases hf : q.full = true
    · have h8 := (Queue.full_eq_true q).1 hf
      simp only [hf, if_true] at h1 ⊢
      have e : (q.front + 1).toNat = (q.front.toNat + 1) % 8 := by simp [BitVec.toNat_add, QIW]
      by_cases hj : j = 7
      · subst hj
        rw [if_pos (by rw [e, h8]; omega)]
        simp [h8]
      · have hlt : 1 + j < q.count.toNat := by omega
        simp only [hlt, dite_true, e]
        rw [if_neg (by omega), Queue.content_getElem]
        simp only [Queue.at]
        congr 2
        apply BitVec.eq_of_toNat_eq
        rw [ringIndex_toNat, ringIndex_toNat, e]
        omega
    · have h8 : q.count.toNat ≠ 8 := fun e => hf ((Queue.full_eq_true q).2 e)
      simp only [hf] at h1 ⊢
      simp only [Bool.false_eq_true, if_false, Nat.zero_add] at h1 ⊢
      by_cases hj : j = q.count.toNat
      · simp [hj]
      · have hlt : j < q.count.toNat := by omega
        simp only [hlt, dite_true]
        rw [if_neg (by omega), Queue.content_getElem]
        rfl

/-! ### POP -/

theorem Queue.pop?_eq_none (q : Queue) : q.pop? = none ↔ q.count = 0 := by
  simp [Queue.pop?]

/-- POP takes the head and leaves the tail and a well-formed queue (R132 on the content of R35). -/
theorem Queue.content_pop (q q' : Queue) (ev : Event) (h : q.WellFormed) (hp : q.pop? = some (ev, q')) :
    q.content = ev :: q'.content ∧ q'.WellFormed := by
  have hc : q.count.toNat ≤ 8 := h.1
  unfold Queue.pop? at hp
  split at hp
  · cases hp
  rename_i hne
  have h0 : q.count.toNat ≠ 0 := fun e => hne (BitVec.eq_of_toNat_eq (by simpa using e))
  simp only [Option.some.injEq, Prod.mk.injEq] at hp
  obtain ⟨rfl, rfl⟩ := hp
  have hcnt : (q.count - 1).toNat = q.count.toNat - 1 := by
    simp [BitVec.toNat_sub]
    omega
  refine ⟨?_, ?_, ?_⟩
  · apply List.ext_getElem
    · simp only [Queue.content_length, List.length_cons, hcnt]; omega
    · intro j h1 h2
      rw [Queue.content_getElem]
      cases j with
      | zero => simp [Queue.at]
      | succ j =>
        rw [List.getElem_cons_succ, Queue.content_getElem]
        simp only [Queue.at, nextIndex]
        congr 2
        apply BitVec.eq_of_toNat_eq
        simp [BitVec.toNat_add, QIW]
        omega
  · show (q.count - 1).toNat ≤ 8
    omega
  · show q.back = q.front + 1 + BitVec.ofNat QIW (q.count - 1).toNat
    rw [h.2, hcnt]
    apply BitVec.eq_of_toNat_eq
    simp [BitVec.toNat_add, QIW]
    omega

end Sys2Proof.Machine
end

