-- ==== Sys2Proof/Laws/Ops.lean ====
section
/-! SUPPORT. The shared operations of the machine: what each answers and leaves, said once. -/

namespace Sys2Proof.Machine

/-! ### Answers of the pin environment -/

@[simp] theorem State.skipAnswers_answer (s : State) (k j : Nat) : (s.skipAnswers k).answer j = s.answer (k + j) := by
  simp only [State.answer, State.skipAnswers_pins, State.skipAnswers_draws, List.length_drop, List.getD,
    List.getElem?_drop]
  congr 2
  omega

theorem State.skipAnswers_add (s : State) (k j : Nat) : (s.skipAnswers k).skipAnswers j = s.skipAnswers (k + j) := by
  simp only [State.skipAnswers, List.drop_drop, List.length_drop]
  congr 1
  omega

@[simp] theorem State.skipAnswers_zero (s : State) : s.skipAnswers 0 = s := by
  simp [State.skipAnswers]

/-- The listed answers are the answers. -/
theorem State.answer_listed (s : State) (as rest : List Bool) (h : s.pins = as ++ rest) (k : Nat) (hk : k < as.length) :
    s.answer k = as[k] := by
  simp [State.answer, List.getD, h, List.getElem?_append_left hk, hk]

/-! ### The configuration -/

theorem Config.thresholdsOk_iff (c : Config) :
    c.thresholdsOk = true ↔ ∀ i < c.n, c.threshold i ≠ 0 := by
  simp only [Config.thresholdsOk, List.all_eq_true, bne_iff_ne, Config.n, Config.threshold]
  constructor
  · intro h i hi
    simpa [hi] using h _ (List.getElem_mem hi)
  · intro h b hb
    obtain ⟨i, hi, rfl⟩ := List.getElem_of_mem hb
    simpa [hi] using h i hi

theorem Config.ok_iff (c : Config) : c.ok = true ↔ 1 ≤ c.n ∧ ∀ i < c.n, c.threshold i ≠ 0 := by
  simp [Config.ok, Config.thresholdsOk_iff]

/-! ### Events -/

/-- Distributing a list of events, oldest first. -/
def emitAll (evs : List Event) (s : State) : State := evs.foldl (fun s ev => emit ev s) s

/-- What `emit` does, mode by mode (R154, R158, R159). -/
theorem emit_cases (ev : Event) (s : State) :
    (s.cfg.eventMode = .queue ∧ emit ev s = s.setQueue (s.q.push ev)) ∨
    (s.cfg.eventMode = .callback ∧ emit ev s = s.logPort (.deliver ev)) ∨
    (s.cfg.eventMode = .none ∧ emit ev s = s) := by
  unfold emit
  split <;> simp_all

/-! ### One pass of INIT's loop -/

theorem initButton_eq (i : Nat) (s : State) :
    initButton i s =
      ((s.skipAnswers 1).logPort (.pinRead (s.cfg.pin i))).setButton i (Button.seed (s.cfg.threshold i) (s.answer 0)) :=
  rfl

/-! ### One pass of UPDATE's loop -/

theorem tickButton_eq (i : Nat) (s : State) :
    tickButton i s =
      emitEdge i (Button.step (s.cfg.threshold i) (s.answer 0) (s.button i)).2
        (((s.skipAnswers 1).logPort (.pinRead (s.cfg.pin i))).setButton i
          (Button.step (s.cfg.threshold i) (s.answer 0) (s.button i)).1) :=
  rfl

/-- What `emitEdge` leaves: everything but the queue and the port log. -/
theorem emitEdge_frame (i : Nat) (e : Option EdgeType) (s : State) :
    (emitEdge i e s).cfg = s.cfg ∧ (emitEdge i e s).btn = s.btn ∧ (emitEdge i e s).phase = s.phase ∧
    (emitEdge i e s).rsp = s.rsp ∧ (emitEdge i e s).host = s.host ∧ (emitEdge i e s).pins = s.pins ∧
    (emitEdge i e s).draws = s.draws := by
  cases e with
  | none => simp [emitEdge]
  | some e => rcases emit_cases (eventOf i e) s with ⟨_, h⟩ | ⟨_, h⟩ | ⟨_, h⟩ <;> simp [emitEdge, h]

/-- The queue and the port log after `emitEdge`. -/
theorem emitEdge_outputs (i : Nat) (e : Option EdgeType) (s : State) :
    (emitEdge i e s).q =
      (if s.cfg.eventMode = .queue then (e.map (eventOf i)).toList.foldl (fun q ev => q.push ev) s.q else s.q) ∧
    (emitEdge i e s).ports =
      s.ports ++ (if s.cfg.eventMode = .callback then (e.map (eventOf i)).toList.map .deliver else []) := by
  cases e with
  | none => simp [emitEdge]
  | some e =>
    rcases emit_cases (eventOf i e) s with ⟨hm, h⟩ | ⟨hm, h⟩ | ⟨hm, h⟩ <;> simp [emitEdge, h, hm]

/-! ### The scans -/

@[simp] theorem forButtons_zero (body : Nat → State → State) (s : State) : forButtons body 0 s = s := rfl

theorem forButtons_succ (body : Nat → State → State) (n : Nat) (s : State) :
    forButtons body (n + 1) s = body n (forButtons body n s) := rfl

/-- Everything the first `n` passes of INIT's loop do (R151). -/
theorem forButtons_init (s : State) (n : Nat) :
    (forButtons initButton n s).cfg = s.cfg ∧ (forButtons initButton n s).q = s.q ∧
    (forButtons initButton n s).phase = s.phase ∧ (forButtons initButton n s).rsp = s.rsp ∧
    (forButtons initButton n s).host = s.host ∧ (forButtons initButton n s).pins = (s.skipAnswers n).pins ∧
    (forButtons initButton n s).draws = (s.skipAnswers n).draws ∧
    (forButtons initButton n s).btn.length = s.btn.length ∧
    (forButtons initButton n s).ports = s.ports ++ (List.range n).map (fun i => .pinRead (s.cfg.pin i)) ∧
    (∀ k, (forButtons initButton n s).answer k = s.answer (n + k)) ∧
    (∀ i, n ≤ i → (forButtons initButton n s).button i = s.button i) ∧
    (∀ i, i < n → i < s.btn.length →
      (forButtons initButton n s).button i = Button.seed (s.cfg.threshold i) (s.answer i)) := by
  induction n with
  | zero => simp
  | succ n ih =>
    obtain ⟨hcfg, hq, hph, hrsp, hhost, hpins, hdraws, hlen, hports, hans, hge, hlt⟩ := ih
    have hskip := State.skipAnswers_add s n 1
    rw [forButtons_succ, initButton_eq]
    refine ⟨hcfg, hq, hph, hrsp, hhost, ?_, ?_, ?_, ?_, ?_, ?_, ?_⟩
    · rw [← hskip]
      simp [hpins]
    · rw [← hskip]
      simp [hdraws, hpins]
    · simpa using hlen
    · simp [hports, hcfg, List.range_succ]
    · intro k
      simp [hans]
      congr 1
      omega
    · intro i hi
      rw [State.button_setButton_ne _ _ (by omega)]
      simp [hge i (by omega)]
    · intro i hi hb
      by_cases e : i = n
      · subst e
        rw [State.button_setButton_self _ _ (by simpa [hlen] using hb)]
        simp [hcfg, hans]
      · rw [State.button_setButton_ne _ _ (by omega)]
        simpa using hlt i (by omega) hb

/-- Everything the first `n` passes of UPDATE's loop do (R154, R158, R159). -/
theorem forButtons_tick (s : State) (n : Nat) :
    (forButtons tickButton n s).cfg = s.cfg ∧ (forButtons tickButton n s).phase = s.phase ∧
    (forButtons tickButton n s).rsp = s.rsp ∧ (forButtons tickButton n s).host = s.host ∧
    (forButtons tickButton n s).pins = (s.skipAnswers n).pins ∧
    (forButtons tickButton n s).draws = (s.skipAnswers n).draws ∧
    (forButtons tickButton n s).btn.length = s.btn.length ∧
    (forButtons tickButton n s).q =
      (if s.cfg.eventMode = .queue then
        ((List.range n).filterMap fun i => (s.tickOf i).2.map (eventOf i)).foldl (fun q ev => q.push ev) s.q
      else s.q) ∧
    (forButtons tickButton n s).ports = s.ports ++ (List.range n).flatMap (fun i =>
      .pinRead (s.cfg.pin i) ::
        (if s.cfg.eventMode = .callback then ((s.tickOf i).2.map (eventOf i)).toList.map .deliver else [])) ∧
    (∀ k, (forButtons tickButton n s).answer k = s.answer (n + k)) ∧
    (∀ i, n ≤ i → (forButtons tickButton n s).button i = s.button i) ∧
    (∀ i, i < n → i < s.btn.length → (forButtons tickButton n s).button i = (s.tickOf i).1) := by
  induction n with
  | zero => simp
  | succ n ih =>
    obtain ⟨hcfg, hph, hrsp, hhost, hpins, hdraws, hlen, hq, hports, hans, hge, hlt⟩ := ih
    have hskip := State.skipAnswers_add s n 1
    have htick : Button.step ((forButtons tickButton n s).cfg.threshold n) ((forButtons tickButton n s).answer 0)
        ((forButtons tickButton n s).button n) = s.tickOf n := by
      simp [State.tickOf, hcfg, hans, hge n (Nat.le_refl n)]
    rw [forButtons_succ, tickButton_eq, htick]
    generalize hu : ((State.skipAnswers (forButtons tickButton n s) 1).logPort
      (.pinRead ((forButtons tickButton n s).cfg.pin n))).setButton n (s.tickOf n).1 = u
    obtain ⟨fcfg, fbtn, fph, frsp, fhost, fpins, fdraws⟩ := emitEdge_frame n (s.tickOf n).2 u
    obtain ⟨fq, fports⟩ := emitEdge_outputs n (s.tickOf n).2 u
    have fbutton : ∀ i, (emitEdge n (s.tickOf n).2 u).button i = u.button i := by
      intro i; simp [State.button, fbtn]
    have ucfg : u.cfg = s.cfg := by rw [← hu]; simp [hcfg]
    have ulen : u.btn.length = s.btn.length := by rw [← hu]; simp [hlen]
    have uq : u.q = (forButtons tickButton n s).q := by rw [← hu]; rfl
    have uports : u.ports = (forButtons tickButton n s).ports ++ [.pinRead (s.cfg.pin n)] := by
      rw [← hu]; simp [hcfg]
    have uans : ∀ k, u.answer k = s.answer (n + (1 + k)) := by intro k; rw [← hu]; simp [hans]
    have uself : n < s.btn.length → u.button n = (s.tickOf n).1 := by
      intro h; rw [← hu, State.button_setButton_self _ _ (by simpa [hlen] using h)]
    have uother : ∀ i, i ≠ n → u.button i = (forButtons tickButton n s).button i := by
      intro i h; rw [← hu, State.button_setButton_ne _ _ (Ne.symm h)]; simp
    refine ⟨fcfg.trans ucfg, ?_, ?_, ?_, ?_, ?_, ?_, ?_, ?_, ?_, ?_, ?_⟩
    · rw [fph, ← hu]; exact hph
    · rw [frsp, ← hu]; exact hrsp
    · rw [fhost, ← hu]; exact hhost
    · rw [fpins, ← hu, ← hskip]
      simp [hpins]
    · rw [fdraws, ← hu, ← hskip]
      simp [hdraws, hpins]
    · rw [fbtn, ulen]
    · rw [fq, ucfg, uq, hq]
      split
      · cases he : (s.tickOf n).2 <;> simp [List.range_succ, List.filterMap_append, he]
      · rfl
    · rw [fports, ucfg, uports, hports]
      simp [List.range_succ]
    · intro k
      have : (emitEdge n (s.tickOf n).2 u).answer k = u.answer k := by simp [State.answer, fpins, fdraws]
      rw [this, uans]
      congr 1
      omega
    · intro i hi
      rw [fbutton, uother i (by omega), hge i (by omega)]
    · intro i hi hb
      rw [fbutton]
      by_cases e : i = n
      · subst e; exact uself hb
      · rw [uother i e, hlt i (by omega) hb]

/-- The scans leave the environment and the waiting command alone. -/
theorem forButtons_env {body : Nat → State → State}
    (h : ∀ i s, (body i s).stallAfter = s.stallAfter ∧ (body i s).busy = s.busy) (n : Nat) (s : State) :
    (forButtons body n s).stallAfter = s.stallAfter ∧ (forButtons body n s).busy = s.busy := by
  induction n with
  | zero => exact ⟨rfl, rfl⟩
  | succ n ih => exact ⟨(h n _).1.trans ih.1, (h n _).2.trans ih.2⟩

theorem forButtons_init_env (n : Nat) (s : State) :
    (forButtons initButton n s).stallAfter = s.stallAfter ∧ (forButtons initButton n s).busy = s.busy :=
  forButtons_env (body := initButton) (fun _ _ => ⟨rfl, rfl⟩) n s

theorem emitEdge_env (i : Nat) (e : Option EdgeType) (s : State) :
    (emitEdge i e s).stallAfter = s.stallAfter ∧ (emitEdge i e s).busy = s.busy := by
  cases e with
  | none => exact ⟨rfl, rfl⟩
  | some e => rcases emit_cases (eventOf i e) s with ⟨_, h⟩ | ⟨_, h⟩ | ⟨_, h⟩ <;> simp [emitEdge, h]

theorem forButtons_tick_env (n : Nat) (s : State) :
    (forButtons tickButton n s).stallAfter = s.stallAfter ∧ (forButtons tickButton n s).busy = s.busy :=
  forButtons_env (fun i s => by rw [tickButton_eq]; exact emitEdge_env _ _ _) n s

/-! ### Waiting for the environment -/

theorem State.completes_iff (s : State) (k : Nat) :
    s.completes k = true ↔ ∀ j, s.stallAfter = some j → k ≤ j := by
  unfold State.completes
  split <;> simp_all

theorem State.completes_of_served {s : State} (h : s.stallAfter = none) (k : Nat) : s.completes k = true := by
  simp [State.completes, h]

/-- What the environment completes is a first part of what the command asks. -/
theorem State.allowed_prefix (s : State) (acts : List PortAction) : s.allowed acts <+: acts := by
  unfold State.allowed
  split
  · exact List.prefix_rfl
  · exact List.take_prefix _ _

theorem State.spend_served {s : State} (h : s.stallAfter = none) (k : Nat) : s.spend k = s := by
  rw [State.spend, h, Option.map_none, ← h]

/-- How a command ends that makes the port actions `acts` on its way from `s` to `t`. -/
theorem atPorts_eq (i : Instr) {s t : State} {acts : List PortAction} (h : t.ports = s.ports ++ acts) :
    atPorts i s t = if s.completes acts.length then t.spend acts.length else s.hang i (s.allowed acts) := by
  simp [atPorts, h]

/-- The two ends of `INIT` (R151, R201). -/
theorem atPorts_init (s : State) :
    atPorts .init s (respond false false 0 ((forButtons initButton s.cfg.n s).setPhase .run)) =
      if s.completes s.initPorts.length then
        (respond false false 0 ((forButtons initButton s.cfg.n s).setPhase .run)).spend s.initPorts.length
      else s.hang .init (s.allowed s.initPorts) :=
  atPorts_eq .init (forButtons_init s s.cfg.n).2.2.2.2.2.2.2.2.1

/-- The two ends of `UPDATE` (R154, R158, R201). -/
theorem atPorts_update (s : State) :
    atPorts .update s (respond false false 0 (forButtons tickButton s.cfg.n s)) =
      if s.completes s.tickPorts.length then
        (respond false false 0 (forButtons tickButton s.cfg.n s)).spend s.tickPorts.length
      else s.hang .update (s.allowed s.tickPorts) :=
  atPorts_eq .update (forButtons_tick s s.cfg.n).2.2.2.2.2.2.2.2.1

end Sys2Proof.Machine
end

