-- ==== Sys2Proof/Laws/Exec.lean ====
section
/-! SUPPORT. Everything a command and a step can do, said once. -/

namespace Sys2Proof.Machine

theorem Phase.run_of_not_uninit {p : Phase} (h : p ≠ .uninit) : p = .run := by cases p <;> simp_all

theorem Phase.uninit_of_not_run {p : Phase} (h : p ≠ .run) : p = .uninit := by cases p <;> simp_all

/-- Every way a command can answer a next state: a refusal, its own effect under its own conditions, or waiting for the
environment. -/
theorem exec_next_cases {i : Instr} {s t : State} (h : exec i s = .next t) :
    (∃ st, st ≠ .ok ∧ t = refuse st s) ∨
    (s.UsesPorts i ∧ s.completes (s.actionsOf i).length = false ∧ t = s.hang i (s.allowed (s.actionsOf i))) ∨
    (i = .init ∧ s.phase = .uninit ∧ s.cfg.ok = true ∧ s.completes s.initPorts.length = true ∧
      t = (respond false false 0 ((forButtons initButton s.cfg.n s).setPhase .run)).spend s.initPorts.length) ∨
    (i = .update ∧ s.phase = .run ∧ s.cfg.thresholdsOk = true ∧ s.completes s.tickPorts.length = true ∧
      t = (respond false false 0 (forButtons tickButton s.cfg.n s)).spend s.tickPorts.length) ∨
    (i = .pop ∧ s.cfg.eventMode = .queue ∧ s.q.count = 0 ∧ t = respond false false 0 s) ∨
    (∃ ev q, i = .pop ∧ s.cfg.eventMode = .queue ∧ s.q.pop? = some (ev, q) ∧
      t = respond true ev.etype.bit ev.btn (s.setQueue q)) ∨
    (∃ k, i = .read k ∧ k.toNat < s.cfg.n ∧ t = respond false false (boolVal (s.button k.toNat).current) s) ∨
    (∃ k, i = .consumeRising k ∧ k.toNat < s.cfg.n ∧
      t = respond false false (boolVal (s.button k.toNat).rising)
        (s.setButton k.toNat (s.button k.toNat).clearRising)) ∨
    (∃ k, i = .consumeFalling k ∧ k.toNat < s.cfg.n ∧
      t = respond false false (boolVal (s.button k.toNat).falling)
        (s.setButton k.toNat (s.button k.toNat).clearFalling)) ∨
    (∃ k, i = .consumeChanged k ∧ k.toNat < s.cfg.n ∧
      t = respond false false (boolVal (s.button k.toNat).changed)
        (s.setButton k.toNat (s.button k.toNat).clearBoth)) := by
  cases i with
  | init =>
    simp only [exec, execInit] at h
    split at h
    · cases h; exact .inl ⟨_, by decide, rfl⟩
    · rename_i hp
      split at h
      · rename_i hok
        have hp := Phase.uninit_of_not_run hp
        rw [atPorts_init] at h
        split at h
        · rename_i hc; cases h; exact .inr (.inr (.inl ⟨rfl, hp, hok, hc, rfl⟩))
        · rename_i hc; cases h; exact .inr (.inl ⟨.inl ⟨rfl, hp, hok⟩, Bool.eq_false_iff.2 hc, rfl⟩)
      · cases h; exact .inl ⟨_, by decide, rfl⟩
  | update =>
    simp only [exec, execUpdate] at h
    split at h
    · cases h; exact .inl ⟨_, by decide, rfl⟩
    · rename_i hp
      split at h
      · rename_i hok
        have hp := Phase.run_of_not_uninit hp
        rw [atPorts_update] at h
        split at h
        · rename_i hc; cases h; exact .inr (.inr (.inr (.inl ⟨rfl, hp, hok, hc, rfl⟩)))
        · rename_i hc; cases h; exact .inr (.inl ⟨.inr ⟨rfl, hp, hok⟩, Bool.eq_false_iff.2 hc, rfl⟩)
      · cases h
  | pop =>
    simp only [exec, execPop] at h
    split at h
    · rename_i hm
      split at h
      · rename_i hp
        cases h
        exact .inr (.inr (.inr (.inr (.inl ⟨rfl, hm, (Queue.pop?_eq_none _).1 hp, rfl⟩))))
      · rename_i ev q hp
        cases h
        exact .inr (.inr (.inr (.inr (.inr (.inl ⟨ev, q, rfl, hm, hp, rfl⟩)))))
    · cases h; exact .inl ⟨_, by decide, rfl⟩
  | read k =>
    simp only [exec, execRead] at h
    split at h
    · rename_i hk
      cases h
      exact .inr (.inr (.inr (.inr (.inr (.inr (.inl ⟨k, rfl, (State.hasButton_eq_true s k).1 hk, rfl⟩))))))
    · cases h; exact .inl ⟨_, by decide, rfl⟩
  | consumeRising k =>
    simp only [exec, execConsumeRising] at h
    split at h
    · rename_i hk
      cases h
      exact .inr (.inr (.inr (.inr (.inr (.inr (.inr (.inl ⟨k, rfl, (State.hasButton_eq_true s k).1 hk, rfl⟩)))))))
    · cases h; exact .inl ⟨_, by decide, rfl⟩
  | consumeFalling k =>
    simp only [exec, execConsumeFalling] at h
    split at h
    · rename_i hk
      cases h
      exact .inr (.inr (.inr (.inr (.inr (.inr (.inr (.inr (.inl ⟨k, rfl, (State.hasButton_eq_true s k).1 hk, rfl⟩))))))))
    · cases h; exact .inl ⟨_, by decide, rfl⟩
  | consumeChanged k =>
    simp only [exec, execConsumeChanged] at h
    split at h
    · rename_i hk
      cases h
      exact .inr (.inr (.inr (.inr (.inr (.inr (.inr (.inr (.inr ⟨k, rfl, (State.hasButton_eq_true s k).1 hk, rfl⟩))))))))
    · cases h; exact .inl ⟨_, by decide, rfl⟩

/-- Every way an accepted word can answer a next state: ERR_ILLEGAL, or the command it decodes to. -/
theorem executeWord_next_cases {w : Word} {s t : State} (h : executeWord w s = .next t) :
    (∃ why, decode s.cfg.eventMode w = .illegal why ∧ t = refuse .errIllegal s) ∨
    (∃ i, decode s.cfg.eventMode w = .command i ∧ exec i s = .next t) := by
  unfold executeWord at h
  split at h
  · rename_i i hd; exact .inr ⟨i, hd, h⟩
  · rename_i why hd; cases h; exact .inl ⟨why, hd, rfl⟩

/-- Every way the environment's change can answer a next state: no command waits, or the one that waits is executed. -/
theorem changeEnvironment_next_cases {e : Option Nat} {s t : State} (h : changeEnvironment e s = .next t) :
    (s.busy = none ∧ t = { s with stallAfter := e }) ∨
    (∃ w, s.busy = some w ∧
      exec w.command { s with busy := none, stallAfter := e.map (· + w.done.length) } = .next t) := by
  unfold changeEnvironment at h
  cases hb : s.busy with
  | none => rw [hb] at h; cases h; exact .inl ⟨rfl, rfl⟩
  | some w => rw [hb] at h; exact .inr ⟨w, rfl, h⟩

/-- Every way a step can answer a next state: idle, a word that has to wait, a command word, a reset, a reset during a
command, a change of the environment. -/
theorem step_next_cases {s t : State} (h : step s = .next t) :
    (s.host = [] ∧ t = s) ∨
    (∃ x rest, s.host = x :: rest ∧ x.needsPort = true ∧ s.busy ≠ none ∧ t = s) ∨
    (∃ w rest, s.host = .command w :: rest ∧ s.busy = none ∧ executeWord w (s.accept rest) = .next t) ∨
    (∃ rest, s.host = .reset :: rest ∧ t = (s.accept rest).applyReset) ∨
    (∃ w k rest, s.host = .resetDuring w k :: rest ∧ s.busy = none ∧ t = abandonWord w k (s.accept rest)) ∨
    (∃ e rest, s.host = .environment e :: rest ∧ changeEnvironment e (s.accept rest) = .next t) := by
  unfold step fetch at h
  cases hh : s.host with
  | nil => rw [hh] at h; cases h; exact .inl ⟨rfl, rfl⟩
  | cons x rest =>
    rw [hh] at h
    simp only at h
    by_cases hw : x.needsPort = true ∧ s.busy ≠ none
    · rw [if_pos (by simpa [Option.isSome_iff_ne_none] using hw)] at h
      cases h; exact .inr (.inl ⟨x, rest, rfl, hw.1, hw.2, rfl⟩)
    · rw [if_neg (by simpa [Option.isSome_iff_ne_none] using hw)] at h
      simp only at h
      cases x with
      | command w => exact .inr (.inr (.inl ⟨w, rest, rfl, by simpa [HostInput.needsPort] using hw, h⟩))
      | reset => cases h; exact .inr (.inr (.inr (.inl ⟨rest, rfl, rfl⟩)))
      | resetDuring w k =>
        cases h
        exact .inr (.inr (.inr (.inr (.inl ⟨w, k, rest, rfl, by simpa [HostInput.needsPort] using hw, rfl⟩))))
      | environment e => exact .inr (.inr (.inr (.inr (.inr ⟨e, rest, rfl, h⟩))))

/-- A step that accepts a command word executes it in the accepting state. -/
theorem step_command {s : State} {w : Word} {rest : List HostInput} (h : s.host = .command w :: rest)
    (hb : s.busy = none) : step s = executeWord w (s.accept rest) := by
  simp [step, fetch, h, hb, handleInput]

theorem step_idle {s : State} (h : s.host = []) : step s = .next s := by
  simp [step, fetch, h]

theorem step_reset {s : State} {rest : List HostInput} (h : s.host = .reset :: rest) :
    step s = .next (s.accept rest).applyReset := by
  simp [step, fetch, h, HostInput.needsPort, handleInput]

theorem step_resetDuring {s : State} {w : Word} {k : Nat} {rest : List HostInput}
    (h : s.host = .resetDuring w k :: rest) (hb : s.busy = none) :
    step s = .next (abandonWord w k (s.accept rest)) := by
  simp [step, fetch, h, hb, handleInput]

theorem step_environment {s : State} {e : Option Nat} {rest : List HostInput}
    (h : s.host = .environment e :: rest) : step s = changeEnvironment e (s.accept rest) := by
  simp [step, fetch, h, HostInput.needsPort, handleInput]

/-- While a command waits, a word at the port has to wait too. -/
theorem step_waits {s : State} {x : HostInput} {rest : List HostInput} (h : s.host = x :: rest)
    (hx : x.needsPort = true) (hb : s.busy ≠ none) : step s = .next s := by
  have : s.busy.isSome = true := Option.isSome_iff_ne_none.2 hb
  simp [step, fetch, h, hx, this]

theorem executeWord_command {s : State} {w : Word} {i : Instr} (h : decode s.cfg.eventMode w = .command i) :
    executeWord w s = exec i s := by
  simp [executeWord, h]

end Sys2Proof.Machine
end

