-- ==== Sys2Proof/Laws/Encoding.lean ====
section
/-! SUPPORT. Fields of the command word and of the response word. -/

namespace Sys2Proof

/-! ### The command word (R71) -/

theorem opField_commandWord (op : BitVec 4) (idx : ButtonIndex) : opField (commandWord op idx) = op := by
  ext k hk
  have h : idx.getLsbD (12 + k) = false := BitVec.getLsbD_of_ge _ _ (by simp only [IDXW]; omega)
  have h1 : 12 + k < 16 := by omega
  simp [opField, commandWord, h, h1, hk]

theorem rsvField_commandWord (op : BitVec 4) (idx : ButtonIndex) : rsvField (commandWord op idx) = 0 := by
  ext k hk
  simp [rsvField, commandWord]
  omega

theorem idxField_commandWord (op : BitVec 4) (idx : ButtonIndex) : idxField (commandWord op idx) = idx := by
  ext k hk
  have hk' : k < 8 := hk
  have h1 : k < 12 := by omega
  have h2 : k < 16 := by omega
  simp [idxField, commandWord, h1, h2, BitVec.getLsbD_eq_getElem hk]

/-- A word with `RSV = 0` is made of its `OP` and its `IDX`. -/
theorem commandWord_of_fields (w : Word) (h : rsvField w = 0) : commandWord (opField w) (idxField w) = w := by
  have h0 : ∀ k, 8 ≤ k → k < 12 → w.getLsbD k = false := by
    intro k hk hk'
    have := congrArg (fun b => b.getLsbD (k - 8)) h
    have e : 8 + (k - 8) = k := by omega
    simp [rsvField, e] at this
    exact this (by omega)
  ext k hk
  rcases Nat.lt_or_ge k 8 with h8 | h8
  · have : k < 12 := by omega
    simp [opField, idxField, commandWord, h8, hk, this]
  · have h3 : ¬ k < 8 := by omega
    rcases Nat.lt_or_ge k 12 with h12 | h12
    · have := h0 k h8 h12
      rw [BitVec.getLsbD_eq_getElem hk] at this
      simp [opField, idxField, commandWord, hk, h12, h3, this]
    · have h4 : ¬ k < 12 := by omega
      have h5 : k - 12 < 4 := by omega
      have h6 : 12 + (k - 12) = k := by omega
      simp [opField, idxField, commandWord, hk, h3, h4, h5, h6]

/-- Decoding a word with `RSV = 0`, by its `OP` and `IDX` (R71 to R73). -/
theorem decode_commandWord (mode : EventMode) (op : BitVec 4) (idx : ButtonIndex) :
    decode mode (commandWord op idx) =
      match op.toNat with
      | 1 => if idx = 0 then .command .init else .illegal .strayIndex
      | 2 => if idx = 0 then .command .update else .illegal .strayIndex
      | 3 =>
        if mode = .queue then (if idx = 0 then .command .pop else .illegal .strayIndex)
        else .illegal .popOutsideQueueMode
      | 4 => .command (.read idx)
      | 5 => .command (.consumeRising idx)
      | 6 => .command (.consumeFalling idx)
      | 7 => .command (.consumeChanged idx)
      | _ => .illegal .reservedOpcode := by
  simp only [decode, rsvField_commandWord, opField_commandWord, idxField_commandWord, decodeUnindexed]
  rfl

/-- The command word as a sum: the opcode's word plus the index. -/
theorem commandWord_eq_add (op : BitVec 4) (idx : ButtonIndex) :
    commandWord op idx = BitVec.ofNat 16 (op.toNat * 4096) + idx.setWidth 16 := by
  apply BitVec.eq_of_toNat_eq
  have h1 := op.isLt
  have h2 : idx.toNat < 256 := idx.isLt
  have h3 : (commandWord op idx).toNat = (op.toNat * 4096) ||| idx.toNat := by
    simp only [commandWord, BitVec.toNat_or, BitVec.toNat_shiftLeft, BitVec.toNat_setWidth, Nat.shiftLeft_eq]
    congr 1 <;> omega
  have h4 : op.toNat * 4096 = 2 ^ 8 * (op.toNat * 16) := by omega
  rw [h3, h4, ← Nat.two_pow_add_eq_or_of_lt h2]
  simp
  omega

/-! ### The response word (R75) -/

namespace Machine

theorem responseWord_status (st : Status) (v e : Bool) (x : BitVec 8) :
    (responseWord st v e x).extractLsb' 12 4 = st.code := by
  ext k hk
  have h : x.getLsbD (12 + k) = false := BitVec.getLsbD_of_ge _ _ (by omega)
  have h1 : 12 + k < 16 := by omega
  have h2 : 12 + k - 11 ≠ 0 := by omega
  have h3 : 12 + k - 8 ≠ 0 := by omega
  simp [responseWord, h, h1, hk, BitVec.getLsbD_ofBool, h2, h3]

theorem responseWord_valid (st : Status) (v e : Bool) (x : BitVec 8) :
    (responseWord st v e x).getLsbD 11 = v := by
  simp [responseWord]

theorem responseWord_zeros (st : Status) (v e : Bool) (x : BitVec 8) :
    (responseWord st v e x).extractLsb' 9 2 = 0 := by
  ext k hk
  have h : x.getLsbD (9 + k) = false := BitVec.getLsbD_of_ge _ _ (by omega)
  have h2 : 9 + k < 11 := by omega
  have h2' : 9 + k < 12 := by omega
  have h3 : 9 + k - 8 ≠ 0 := by omega
  simp [responseWord, h, BitVec.getLsbD_ofBool, h2, h2', h3]

theorem responseWord_etype (st : Status) (v e : Bool) (x : BitVec 8) :
    (responseWord st v e x).getLsbD 8 = e := by
  simp [responseWord]

theorem responseWord_val (st : Status) (v e : Bool) (x : BitVec 8) :
    (responseWord st v e x).extractLsb' 0 8 = x := by
  ext k hk
  have h1 : k < 8 := hk
  have h2 : k < 11 := by omega
  have h3 : k < 12 := by omega
  have h4 : k < 16 := by omega
  simp [responseWord, h1, h2, h3, h4]

theorem Status.code_inj {st st' : Status} : st.code = st'.code ↔ st = st' := by
  cases st <;> cases st' <;> decide

/-- A response word tells its fields apart (R75). -/
theorem responseWord_inj {st st' : Status} {v v' e e' : Bool} {x x' : BitVec 8} :
    responseWord st v e x = responseWord st' v' e' x' ↔ st = st' ∧ v = v' ∧ e = e' ∧ x = x' := by
  constructor
  · intro h
    refine ⟨Status.code_inj.1 ?_, ?_, ?_, ?_⟩
    · rw [← responseWord_status st v e x, h, responseWord_status]
    · rw [← responseWord_valid st v e x, h, responseWord_valid]
    · rw [← responseWord_etype st v e x, h, responseWord_etype]
    · rw [← responseWord_val st v e x, h, responseWord_val]
  · rintro ⟨rfl, rfl, rfl, rfl⟩
    rfl

/-- The refusals' words (R77). -/
theorem refuse_word (st : Status) (s : State) : (refuse st s).rsp = some (st.code.setWidth 16 <<< 12) := by
  cases st <;> rfl

end Machine

end Sys2Proof
end

