-- ==== Sys2Proof/Laws/PerInstr.lean ====
section
/-! SUPPORT. Laws stated once per constructor of `Instr`. -/

namespace Sys2Proof.Laws

/-! ### `EncodedFields`: the three fields of a command's word (R71, R72) -/

/-- The `OP` of a command (R72). -/
def opcodeOf : Instr → BitVec 4
  | .init             => 0x1
  | .update           => 0x2
  | .pop              => 0x3
  | .read _           => 0x4
  | .consumeRising _  => 0x5
  | .consumeFalling _ => 0x6
  | .consumeChanged _ => 0x7

namespace EncodedFields

/-- `OP` is the command's, `RSV` is zero, `IDX` is the index, or zero for a command that takes none. -/
def Statement (i : Instr) : Prop :=
  opField (encode i) = opcodeOf i ∧ rsvField (encode i) = 0 ∧ idxField (encode i) = i.index?.getD 0

theorem fields (op : BitVec 4) (idx : ButtonIndex) :
    opField (commandWord op idx) = op ∧ rsvField (commandWord op idx) = 0 ∧ idxField (commandWord op idx) = idx :=
  ⟨opField_commandWord op idx, rsvField_commandWord op idx, idxField_commandWord op idx⟩

theorem init : Statement .init := fields _ _

theorem update : Statement .update := fields _ _

theorem pop : Statement .pop := fields _ _

theorem read (i : ButtonIndex) : Statement (.read i) := fields _ _

theorem consumeRising (i : ButtonIndex) : Statement (.consumeRising i) := fields _ _

theorem consumeFalling (i : ButtonIndex) : Statement (.consumeFalling i) := fields _ _

theorem consumeChanged (i : ButtonIndex) : Statement (.consumeChanged i) := fields _ _

end EncodedFields

end Sys2Proof.Laws
end

