-- ==== Sys2Proof/Tests/Slice0.lean ====
section
/-! SUPPORT. Tests: ill-formed terms, words of the spec, one step per test with the values of 95_test_vectors.md, and a
witness for the hypotheses of every obligation that has some. -/

namespace Sys2Proof.Tests

open Sys2Proof Sys2Proof.Machine

/-! ### Helpers -/

/-- A button as the spec's vectors write it, `{c, cur, r, f}`. -/
def bt (c : Count) (cur r f : Bool) : Button := { counter := c, current := cur, rising := r, falling := f }

/-- The event of a 9-bit event word. -/
def evw (w : BitVec 9) : Event :=
  { etype := if w.getLsbD 8 then .rising else .falling, btn := w.extractLsb' 0 8 }

/-- A queue as the spec's vectors write it, `{front, back, count}`, with the slots given in front of zero words. -/
def qu (front back : BitVec 3) (count : BitVec 4) (slots : List (BitVec 9) := []) : Queue :=
  { buf := Vector.ofFn fun k => evw (slots.getD k.val 0), front := front, back := back, count := count }

/-- An instance with these thresholds (button `i` on pin `i`), phase, buttons, queue, inputs and answers. -/
def st (thresholds : List Count) (phase : Phase) (btn : List Button) (q : Queue) (host : List HostInput)
    (pins : List Bool) (mode : EventMode := .queue) : State :=
  { cfg := { straps := thresholds.zipIdx.map fun x => { pin := BitVec.ofNat 8 x.2, threshold := x.1 }, eventMode := mode },
    btn := btn, q := q, phase := phase, rsp := none, ports := [], host := host, pins := pins, draws := 0,
    stallAfter := none, busy := none }

/-- Whether an outcome is a next state that passes a check. -/
def nextIs (o : Host.Outcome State Fault Refusal) (p : State → Bool) : Bool :=
  match o with
  | .next t => p t
  | _ => false

/-! ### WellFormed refuses ill-formed terms -/

theorem test_wf_pop_in_callback_mode_refused : ¬ Instr.WellFormed .callback .pop := by decide

theorem test_wf_pop_in_none_mode_refused : ¬ Instr.WellFormed .none .pop := by decide

theorem test_wf_pop_in_queue_mode : Instr.WellFormed .queue .pop := by decide

theorem test_wf_256_buttons : Config.WellFormed { straps := List.replicate 256 ⟨0, 1⟩, eventMode := .queue } := by
  unfold Config.WellFormed; rw [List.length_replicate]

theorem test_wf_257_buttons_refused :
    ¬ Config.WellFormed { straps := List.replicate 257 ⟨0, 1⟩, eventMode := .queue } := by
  unfold Config.WellFormed; rw [List.length_replicate]; decide

theorem test_wf_count_9_refused : ¬ (qu 0 1 9).WellFormed := by decide

theorem test_wf_back_off_by_one_refused : ¬ (qu 5 0 2).WellFormed := by decide

theorem test_wf_short_table_refused : ¬ (st [3, 1] .run [bt 0 false false false] (qu 0 0 0) [] []).WellFormed := by
  decide

theorem test_wf_rail_against_level_refused :
    ¬ (st [3] .run [bt 3 false false false] (qu 0 0 0) [] []).Inv := by decide

/-! ### Words (95_test_vectors.md V14) -/

theorem test_decode_init : decode .queue 0x1000#16 = .command .init := by decide

theorem test_decode_update : decode .queue 0x2000#16 = .command .update := by decide

theorem test_decode_pop : decode .queue 0x3000#16 = .command .pop := by decide

theorem test_decode_read_0_and_255 :
    decode .queue 0x4000#16 = .command (.read 0) ∧ decode .queue 0x40FF#16 = .command (.read 255) := by decide

theorem test_decode_consume_rising_3 : decode .queue 0x5003#16 = .command (.consumeRising 3) := by decide

theorem test_decode_consume_falling_16 : decode .queue 0x6010#16 = .command (.consumeFalling 16) := by decide

theorem test_decode_consume_changed_1 : decode .queue 0x7001#16 = .command (.consumeChanged 1) := by decide

/-- Bit by bit from R71: OP = 0101, RSV = 0000, IDX = 10100101. -/
theorem test_decode_bit_by_bit : decode .queue 0b0101000010100101#16 = .command (.consumeRising 165) := by decide

theorem test_illegal_words :
    decode .queue 0x0000#16 = .illegal .reservedOpcode ∧ decode .queue 0x0001#16 = .illegal .reservedOpcode ∧
    decode .queue 0x1001#16 = .illegal .strayIndex ∧ decode .queue 0x2080#16 = .illegal .strayIndex ∧
    decode .queue 0x3001#16 = .illegal .strayIndex ∧ decode .queue 0x4100#16 = .illegal .reservedBits ∧
    decode .queue 0x5F00#16 = .illegal .reservedBits ∧ decode .queue 0xFFFF#16 = .illegal .reservedBits := by decide

theorem test_illegal_high_opcodes :
    [0x8000#16, 0x9000#16, 0xA000#16, 0xB000#16, 0xC000#16, 0xD000#16, 0xE000#16, 0xF000#16].all
      (fun w => decide (decode .queue w = .illegal .reservedOpcode)) = true := by decide

theorem test_illegal_pop_outside_queue_mode :
    decode .callback 0x3000#16 = .illegal .popOutsideQueueMode ∧
    decode .none 0x3000#16 = .illegal .popOutsideQueueMode := by decide

theorem test_encode_words :
    encode .init = 0x1000#16 ∧ encode .update = 0x2000#16 ∧ encode .pop = 0x3000#16 ∧
    encode (.read 255) = 0x40FF#16 ∧ encode (.consumeRising 3) = 0x5003#16 ∧
    encode (.consumeFalling 16) = 0x6010#16 ∧ encode (.consumeChanged 1) = 0x7001#16 := by decide

theorem test_decodeTableWord :
    decodeTableWord 16 0x1000 = some .init ∧ decodeTableWord 16 0x7001 = some (.consumeChanged 1) ∧
    decodeTableWord 16 0x8000 = none := by decide

/-- R83. -/
theorem test_asm : Instr.asm (.consumeChanged 2) = "CONSUME_CHANGED 2" ∧ Instr.asm .init = "INIT" := ⟨rfl, rfl⟩

/-- V15. -/
theorem test_response_words :
    responseWord .ok false false 1 = 0x0001#16 ∧ responseWord .ok true false 0 = 0x0800#16 ∧
    responseWord .ok true true 255 = 0x09FF#16 ∧ responseWord .errConfig false false 0 = 0x1000#16 ∧
    responseWord .errPhase false false 0 = 0x2000#16 ∧ responseWord .errIndex false false 0 = 0x3000#16 ∧
    responseWord .errIllegal false false 0 = 0x4000#16 := by decide

/-! ### The machine right after reset -/

/-- Every row of the table runs as the first command after reset. -/
theorem test_every_row_runs_after_reset :
    ∀ w ∈ [0x1000, 0x2000, 0x3000, 0x4000, 0x5000, 0x6000, 0x7000],
      nextIs (step (State.reset.withFetchWord 16 w)) (fun t => t.host == [] && t.rsp.isSome) = true := by
  intro w hw
  simp only [List.mem_cons, List.not_mem_nil, or_false] at hw
  rcases hw with rfl | rfl | rfl | rfl | rfl | rfl | rfl <;> rfl

/-- Program A, line 1. -/
theorem test_init_after_reset :
    nextIs (step { State.reset.withFetchWord 16 0x1000 with pins := [false] })
      (fun t => t.rsp == some 0x0000#16 && t.phase == .run && t.button 0 == bt 0 false false false) = true := by decide

/-! ### INIT -/

/-- The example of R151. -/
theorem test_init_seeds_each_rail :
    nextIs (step (st [3, 1] .uninit [bt 0 false false false, bt 0 false false false] (qu 0 0 0)
        [.command 0x1000#16] [false, true]))
      (fun t => t.rsp == some 0x0000#16 && t.phase == .run &&
        t.btn == [bt 0 false false false, bt 1 true false false] && t.ports == [.pinRead 0, .pinRead 1] &&
        t.pins == []) = true := by decide

/-- Program E (a): nothing is read and nothing written. -/
theorem test_init_zero_threshold_refused :
    nextIs (step (st [3, 0] .uninit [bt 0 false false false, bt 0 false false false] (qu 0 0 0)
        [.command 0x1000#16] [true, true]))
      (fun t => t.rsp == some 0x1000#16 && t.phase == .uninit && t.ports == [] && t.pins == [true, true] &&
        t.btn == [bt 0 false false false, bt 0 false false false]) = true := by decide

/-! ### UPDATE -/

/-- Program B, line 3: both buttons fall in one tick, and the events are queued in index order. -/
theorem test_update_two_falls_in_index_order :
    nextIs (step (st [2, 1] .run [bt 1 true false false, bt 1 true true false] (qu 0 1 1 [0x101])
        [.command 0x2000#16] [false, false]))
      (fun t => t.rsp == some 0x0000#16 && t.btn == [bt 0 false false true, bt 0 false true true] &&
        t.q == qu 0 3 3 [0x101, 0x000, 0x001]) = true := by decide

/-- Program C, line 2: nine events in one tick; the ninth drops the first. -/
theorem test_update_overflow_in_one_tick :
    nextIs (step (st (List.replicate 9 1) .run (List.replicate 9 (bt 0 false false false)) (qu 0 0 0)
        [.command 0x2000#16] (List.replicate 9 true)))
      (fun t => t.btn == List.replicate 9 (bt 1 true true false) &&
        t.q == qu 1 1 8 [0x108, 0x101, 0x102, 0x103, 0x104, 0x105, 0x106, 0x107]) = true := by decide

/-- R158: in callback mode each event is delivered before the next pin is read. -/
theorem test_update_delivers_between_pin_reads :
    nextIs (step (st [1, 1] .run [bt 0 false false false, bt 0 false false false] (qu 0 0 0)
        [.command 0x2000#16] [true, true] .callback))
      (fun t => t.ports == [.pinRead 0, .deliver (evw 0x100), .pinRead 1, .deliver (evw 0x101)] &&
        t.q == qu 0 0 0) = true := by decide

/-! ### POP and PUSH (V12) -/

/-- Q5: `front` wraps from 7 to 0. -/
theorem test_pop_wraps_front :
    nextIs (step (st [3] .run [bt 0 false false false] (qu 7 2 3 [0, 0, 0, 0, 0, 0, 0, 0x102]) [.command 0x3000#16] []))
      (fun t => t.rsp == some 0x0902#16 && t.q == qu 0 2 2 [0, 0, 0, 0, 0, 0, 0, 0x102]) = true := by decide

/-- Q6. -/
theorem test_pop_empty :
    nextIs (step (st [3] .run [bt 0 false false false] (qu 4 4 0) [.command 0x3000#16] []))
      (fun t => t.rsp == some 0x0000#16 && t.q == qu 4 4 0) = true := by decide

/-- Q3. -/
theorem test_push_full_drops_oldest :
    (qu 0 0 8 [0x100, 0x101, 0x102]).push (evw 0x108) = qu 1 1 8 [0x108, 0x101, 0x102] := by decide

/-- Q2. -/
theorem test_push_wraps_back :
    (qu 5 7 2).push (evw 0x003) = qu 5 0 3 [0, 0, 0, 0, 0, 0, 0, 0x003] := by decide

/-! ### READ and the consume commands (V11, programs A and D) -/

/-- Program A, line 12: the level confirmed last, not the latest sample. -/
theorem test_read_between_rails :
    nextIs (step (st [3] .run [bt 1 true false false] (qu 0 1 1 [0x100]) [.command 0x4000#16] []))
      (fun t => t.rsp == some 0x0001#16 && t.btn == [bt 1 true false false]) = true := by decide

/-- Program D, line 4. -/
theorem test_read_bad_index :
    nextIs (step (st [3, 1] .uninit [bt 0 false false false, bt 0 false false false] (qu 0 0 0) [.command 0x4002#16] []))
      (fun t => t.rsp == some 0x3000#16) = true := by decide

theorem test_consume_rising_keeps_falling :
    nextIs (step (st [3] .run [bt 1 true true true] (qu 0 1 1 [0x100]) [.command 0x5000#16] []))
      (fun t => t.rsp == some 0x0001#16 && t.btn == [bt 1 true false true] && t.q == qu 0 1 1 [0x100]) = true := by
  decide

theorem test_consume_falling_keeps_rising :
    nextIs (step (st [3] .run [bt 1 true true true] (qu 0 0 0) [.command 0x6000#16] []))
      (fun t => t.rsp == some 0x0001#16 && t.btn == [bt 1 true true false]) = true := by decide

theorem test_consume_falling_not_set :
    nextIs (step (st [3] .run [bt 1 true true false] (qu 0 0 0) [.command 0x6000#16] []))
      (fun t => t.rsp == some 0x0000#16 && t.btn == [bt 1 true true false]) = true := by decide

theorem test_consume_changed_one_latch :
    nextIs (step (st [3] .run [bt 1 true false true] (qu 0 0 0) [.command 0x7000#16] []))
      (fun t => t.rsp == some 0x0001#16 && t.btn == [bt 1 true false false]) = true := by decide

/-- Program D, line 12. -/
theorem test_consume_changed_bad_index :
    nextIs (step (st [3, 1] .run [bt 3 true true false, bt 1 true false false] (qu 0 0 0) [.command 0x70FF#16] []))
      (fun t => t.rsp == some 0x3000#16 && t.btn == [bt 3 true true false, bt 1 true false false]) = true := by decide

/-! ### STEP (V6, V8) -/

/-- V6, the column of sample 1, T = 2: entries (0,0), (1,0), (1,1), (2,1), (0,1), (2,0). -/
theorem test_step_table_up :
    [(0, false), (1, false), (1, true), (2, true), (0, true), (2, false)].map
        (fun e => let r := Button.step 2 true (bt e.1 e.2 false false); (r.1.counter, r.1.current, r.2)) =
      [(1, false, none), (2, true, some .rising), (2, true, none), (2, true, none), (1, true, none),
        (2, true, some .rising)] := by decide

/-- V6, the column of sample 0. -/
theorem test_step_table_down :
    [(0, false), (1, false), (1, true), (2, true), (0, true), (2, false)].map
        (fun e => let r := Button.step 2 false (bt e.1 e.2 false false); (r.1.counter, r.1.current, r.2)) =
      [(0, false, none), (0, false, none), (0, false, some .falling), (1, true, none), (0, false, some .falling),
        (1, false, none)] := by decide

/-- V8, the 255th and the 256th sample. -/
theorem test_step_largest_threshold :
    Button.step 255 true (bt 254 false false false) = (bt 255 true true false, some .rising) ∧
    Button.step 255 true (bt 255 true true false) = (bt 255 true true false, none) := by decide

/-! ### Reset and the host's side -/

/-- R190, R191: reset between commands. -/
theorem test_reset_clears :
    nextIs (step (st [3] .run [bt 2 true true true] (qu 5 0 3) [.reset] [true]))
      (fun t => t.btn == [bt 0 false false false] && t.phase == .uninit && t.q == qu 0 0 0 && t.pins == [true]) = true := by
  decide

/-- R191: reset when an UPDATE has made one of its two pin reads: one answer is used up, no response is given. -/
theorem test_reset_during_update :
    nextIs (step (st [3, 1] .run [bt 2 true true true, bt 1 true false false] (qu 5 0 3) [.resetDuring 0x2000#16 1]
        [true, false]))
      (fun t => t.btn == [bt 0 false false false, bt 0 false false false] && t.phase == .uninit && t.rsp == none &&
        t.ports == [.pinRead 0] && t.pins == [false]) = true := by decide

/-! ### An environment that leaves a port action open (R85, R201, U11) -/

/-- Two running buttons in callback mode whose next samples of 1 raise them, and an environment that completes `k` port
actions. -/
def callback (k : Option Nat) (host : List HostInput) : State :=
  { st [1, 1] .run [bt 0 false false false, bt 0 false false false] (qu 0 0 0) host [true, true] .callback with
    stallAfter := k }

/-- The same with an `UPDATE` that waits for its first event to be accepted. -/
def waiting (host : List HostInput) : State :=
  { callback (some 0) host with busy := some { command := .update, done := [.pinRead 0] } }

/-- R85: the consumer does not accept the first event: the second pin is not read, and no response is given. -/
theorem test_update_waits_for_the_consumer :
    nextIs (step (callback (some 1) [.command 0x2000#16]))
      (fun t => decide (t = { waiting [] with ports := [.pinRead 0] })) = true := by decide

/-- The event is accepted after all, and everything after it. -/
theorem test_update_ends_once_served :
    nextIs (step (waiting [.environment none]))
      (fun t => t.rsp == some 0x0000#16 && t.busy == none && t.btn == [bt 1 true true false, bt 1 true true false] &&
        t.ports == [.pinRead 0, .deliver (evw 0x100), .pinRead 1, .deliver (evw 0x101)] && t.pins == []) = true := by
  decide

/-- R158: while the consumer holds an event, the command port is busy. -/
theorem test_command_waits_for_the_port :
    nextIs (step (waiting [.command 0x4000#16])) (fun t => decide (t = waiting [.command 0x4000#16])) = true := by decide

/-- R191, R201: reset is the one abort; the answer to the pin read that was made is used up. -/
theorem test_reset_ends_the_wait :
    nextIs (step (waiting [.reset]))
      (fun t => t.busy == none && t.phase == .uninit && t.rsp == none && t.pins == [true] &&
        t.btn == [bt 0 false false false, bt 0 false false false]) = true := by decide

/-- R201: `INIT` waits for its second pin. -/
theorem test_init_waits_for_a_pin :
    nextIs (step { st [3, 1] .uninit [bt 0 false false false, bt 0 false false false] (qu 0 0 0) [.command 0x1000#16]
        [true, true] with stallAfter := some 1 })
      (fun t => t.rsp == none && t.phase == .uninit && t.ports == [.pinRead 0] &&
        t.busy == some { command := .init, done := [.pinRead 0] } &&
        t.btn == [bt 0 false false false, bt 0 false false false]) = true := by decide

/-- R110, log 8. -/
theorem test_update_zero_threshold_faults :
    execUpdate (st [0] .run [bt 0 false false false] (qu 0 0 0) [] [true]) = .fault .zeroThreshold := by rfl

/-! ### Witnesses: each obligation's hypotheses are met together, each clause at a boundary of its range -/

/-- Button at the low rail. -/
def low : Button := bt 0 false false false

/-- Two buttons right after reset, thresholds 3 and 1. -/
def fresh (host : List HostInput) (pins : List Bool) (mode : EventMode := .queue) : State :=
  st [3, 1] .uninit [low, low] (qu 0 0 0) host pins mode

/-- Two running buttons, thresholds 3 and 1: one two samples up with an old falling edge, one high with its rise in
the queue. -/
def running (host : List HostInput) (pins : List Bool) : State :=
  st [3, 1] .run [bt 2 false false true, bt 1 true true false] (qu 7 1 2 [0x101, 0, 0, 0, 0, 0, 0, 0x000]) host pins

/-- The same buttons in a mode without a queue. -/
def runningIn (mode : EventMode) (pins : List Bool) : State :=
  st [3, 1] .run [bt 2 false false true, bt 1 true true false] (qu 0 0 0) [] pins mode

theorem witness_DecodeOfEncodeIsTheCommand :
    Instr.WellFormed .queue .pop ∧ Instr.WellFormed .none (.read 255) := by decide

theorem witness_EncodeOfDecodeIsTheWord :
    decode .queue 0x3000#16 = .command .pop ∧ decode .none 0x70FF#16 = .command (.consumeChanged 255) := by decide

theorem witness_MatchAndMaskSelectTheCommand :
    [0x0FFF#16, 0x1001#16, 0x30FF#16, 0x7100#16, 0x8000#16].all (fun w =>
      [(0x1000#16, 0xFFFF#16), (0x2000#16, 0xFFFF#16), (0x3000#16, 0xFFFF#16), (0x4000#16, 0xFF00#16),
        (0x5000#16, 0xFF00#16), (0x6000#16, 0xFF00#16), (0x7000#16, 0xFF00#16)].all
        (fun row => w &&& row.2 != row.1)) = true := by decide

theorem witness_ReservedWordsAreRefused :
    (running [.command 0x8000#16, .reset] []).busy = none ∧
    (running [.command 0x8000#16, .reset] []).host = [.command 0x8000#16, .reset] ∧
    decode (running [] []).cfg.eventMode 0x8000#16 = .illegal .reservedOpcode := by decide

theorem witness_StepRunsTheDecodedCommand :
    (running [.command 0x4001#16] []).busy = none ∧
    (running [.command 0x4001#16] []).host = [.command 0x4001#16] ∧
    decode (running [] []).cfg.eventMode 0x4001#16 = .command (.read 1) := by decide

/-- Answered, and waiting. -/
theorem witness_EachCommandIsAnsweredOnce :
    (∃ t, (running [.command 0x4001#16] []).busy = none ∧
      step (running [.command 0x4001#16] []) = .next t ∧ t.busy = none) ∧
    (∃ t, (callback (some 1) [.command 0x2000#16]).busy = none ∧
      step (callback (some 1) [.command 0x2000#16]) = .next t ∧ t.rsp = none) :=
  ⟨⟨_, rfl, rfl, rfl⟩, ⟨_, rfl, rfl, rfl⟩⟩

theorem witness_IdleBlockKeepsItsState : (running [] []).host = [] := rfl

/-- VALID set; VALID clear with an index; VALID clear without one. -/
theorem witness_ResponseWordFields :
    (∃ t, exec .pop (running [] []) = .next t ∧ t.busy = none ∧ t.rsp = some 0x0800#16) ∧
    (∃ t, exec (.read 1) (running [] []) = .next t ∧ t.busy = none ∧ t.rsp = some 0x0001#16) ∧
    (∃ t, exec .init (running [] []) = .next t ∧ t.busy = none ∧ t.rsp = some 0x2000#16) :=
  ⟨⟨_, rfl, rfl, rfl⟩, ⟨_, rfl, rfl, rfl⟩, ⟨_, rfl, rfl, rfl⟩⟩

theorem witness_RefusedCommandChangesNothing :
    ∃ t, (running [.command 0x4002#16, .command 0x3000#16] []).busy = none ∧
      step (running [.command 0x4002#16, .command 0x3000#16] []) = .next t ∧ t.rsp = some 0x3000#16 ∧
      (0x3000#16).extractLsb' 12 4 ≠ 0#4 ∧ ([.command 0x3000#16] : List HostInput) ≠ [] :=
  ⟨_, rfl, rfl, rfl, by decide, by decide⟩

/-- Each error code is given, at the lowest bad index and with no button at all, and each command also runs. -/
theorem witness_ErrorsHaveTheirCauses :
    (∃ t, exec .init (st [] .uninit [] (qu 0 0 0) [] []) = .next t ∧ t.busy = none ∧ t.rsp = some 0x1000#16) ∧
    (∃ t, exec .init (st [3, 0] .uninit [low, low] (qu 0 0 0) [] []) = .next t ∧ t.busy = none ∧
      t.rsp = some 0x1000#16) ∧
    (∃ t, exec .update (fresh [] []) = .next t ∧ t.busy = none ∧ t.rsp = some 0x2000#16) ∧
    (∃ t, exec (.read 2) (fresh [] []) = .next t ∧ t.busy = none ∧ t.rsp = some 0x3000#16) ∧
    (∃ t, exec (.read 1) (fresh [] []) = .next t ∧ t.busy = none ∧ t.rsp = some 0x0000#16) :=
  ⟨⟨_, rfl, rfl, rfl⟩, ⟨_, rfl, rfl, rfl⟩, ⟨_, rfl, rfl, rfl⟩, ⟨_, rfl, rfl, rfl⟩, ⟨_, rfl, rfl, rfl⟩⟩

/-- Between two commands, and while a command waits that has taken one answer. -/
theorem witness_ResetLeavesTheResetValues :
    ((running [.reset] [true]).host = [.reset] ∧ (running [.reset] [true]).openReads = 0) ∧
    ((waiting [.reset]).host = [.reset] ∧ (waiting [.reset]).openReads = 1) := by decide

theorem witness_ResetAbandonsACommand :
    (running [.resetDuring 0x2000#16 0] []).host = [.resetDuring 0x2000#16 0] ∧
    (running [.resetDuring 0x8000#16 7] []).host = [.resetDuring 0x8000#16 7] ∧
    (running [.resetDuring 0x2000#16 0] []).busy = none ∧ (running [.resetDuring 0x8000#16 7] []).busy = none :=
  ⟨rfl, rfl, rfl, rfl⟩

/-- The last index of the two buttons among them. -/
theorem witness_BlockBeforeInitAnswersZero :
    (fresh [] []).Inv ∧ (fresh [] []).phase = .uninit ∧ (1#8).toNat < (fresh [] []).cfg.n ∧
    (fresh [] []).cfg.eventMode = .queue ∧ (fresh [] []).host = [] := by decide

/-- Per row an entry with the smallest threshold it allows, and one with threshold 255. -/
theorem witness_StepFollowsItsTable :
    ((bt 0 false false false).counter.toNat + 1 < (2 : Count).toNat ∧
      (bt 253 true false false).counter.toNat + 1 < (255 : Count).toNat) ∧
    ((bt 0 false false false).counter.toNat + 1 = (1 : Count).toNat ∧ (bt 0 false false false).current = false) ∧
    ((bt 254 true false false).counter.toNat + 1 = (255 : Count).toNat ∧ (bt 254 true false false).current = true) ∧
    ((bt 1 true false false).counter = (1 : Count) ∧ (bt 1 true false false).current = true) ∧
    ((bt 255 false false false).counter = (255 : Count) ∧ (bt 255 false false false).current = false) ∧
    (1 < (bt 2 true false false).counter.toNat ∧ (bt 2 true false false).counter.toNat ≤ (2 : Count).toNat) ∧
    ((bt 1 true false false).counter.toNat = 1 ∧ (bt 1 true false false).current = true) ∧
    ((bt 1 false false false).counter.toNat = 1 ∧ (bt 1 false false false).current = false) ∧
    ((bt 0 false false false).counter.toNat = 0 ∧ (bt 0 true false false).counter.toNat = 0) := by decide

/-- The largest threshold at its rail, and the smallest one at the low rail. -/
theorem witness_CounterSaturatesAndNeverWraps :
    (1 ≤ (255 : Count).toNat ∧ (bt 255 true false false).counter.toNat ≤ (255 : Count).toNat) ∧
    (1 ≤ (1 : Count).toNat ∧ (bt 0 false false false).counter.toNat ≤ (1 : Count).toNat) := by
  decide

theorem witness_ThresholdOneFollowsTheSample :
    (bt 0 false false false).counter.toNat ≤ 1 ∧ (bt 1 true false false).counter.toNat ≤ 1 := by decide

theorem witness_FlipTakesTheRemainingSamples :
    ((bt 0 false false false).counter.toNat < (1 : Count).toNat ∧ (bt 0 false false false).current = false) ∧
    ((bt 254 false false false).counter.toNat < (255 : Count).toNat ∧ (bt 254 false false false).current = false) ∧
    (0 < (bt 1 true false false).counter.toNat ∧ (bt 1 true false false).counter.toNat ≤ (1 : Count).toNat ∧
      (bt 1 true false false).current = true) ∧
    ((bt 0 false false false).counter = 0 ∧ (bt 0 false false false).current = false) := by decide

theorem witness_NoiseIsRejectedFromTheLowRail :
    ((bt 0 false false false).counter = 0 ∧ (bt 0 false false false).current = false ∧ 0 < (1 : Count).toNat ∧
      254 < (255 : Count).toNat) ∧
    (0 < (bt 1 false false false).counter.toNat ∧ (bt 1 false false false).counter.toNat < (2 : Count).toNat ∧
      (bt 1 false false false).current = false) := by decide

theorem witness_EdgesAlternateAlongAnyStream :
    (1 ≤ (1 : Count).toNat ∧ (bt 0 false false false).counter.toNat ≤ (1 : Count).toNat) ∧
    (1 ≤ (255 : Count).toNat ∧ (bt 255 true false false).counter = 255 ∧ (bt 255 true false false).current = true) := by
  decide

theorem witness_FallNeedsThresholdDownSamples :
    1 ≤ (2 : Count).toNat ∧ (bt 2 true false false).counter = 2 ∧ (bt 2 true false false).current = true ∧
    some EdgeType.falling ∈ (Button.steps 2 [false, true, false, false] (bt 2 true false false)).2 := by decide

theorem witness_EdgeTypeIsTheNewLevel :
    (1 ≤ (1 : Count).toNat ∧ (bt 0 false false false).counter.toNat ≤ (1 : Count).toNat ∧
      (Button.step 1 true (bt 0 false false false)).2 = some .rising) ∧
    (1 ≤ (255 : Count).toNat ∧ (bt 1 true false false).counter.toNat ≤ (255 : Count).toNat ∧
      (Button.step 255 false (bt 1 true false false)).2 = some .falling) := by decide

theorem witness_ReadAnswersTheLevel :
    (1#8).toNat < (running [] []).cfg.n ∧ (running [] []).cfg.n ≤ (2#8).toNat := by decide

theorem witness_ConsumeRisingAnswersAndClears :
    (running [] []).WellFormed ∧ (1#8).toNat < (running [] []).cfg.n ∧ (running [] []).cfg.n ≤ (2#8).toNat := by decide

theorem witness_ConsumeFallingAnswersAndClears :
    (running [] []).WellFormed ∧ (0#8).toNat < (running [] []).cfg.n ∧ (running [] []).cfg.n ≤ (255#8).toNat := by decide

theorem witness_ConsumeChangedAnswersAndClears :
    (fresh [] []).WellFormed ∧ (1#8).toNat < (fresh [] []).cfg.n ∧ (fresh [] []).cfg.n ≤ (2#8).toNat := by decide

/-- The first consume answers 1, and other commands come between it and the second. -/
theorem witness_SecondConsumeAnswersZero :
    (running [] []).WellFormed ∧ (1#8).toNat < (running [] []).cfg.n ∧ Instr.update ∉ [Instr.pop, .consumeFalling 0] ∧
    ∃ t u, exec (.consumeRising 1) (running [] []) = .next t ∧ t.rsp = some 0x0001#16 ∧
      runCommands [.pop, .consumeFalling 0] t = some u := ⟨by decide, by decide, by decide, _, _, rfl, rfl, rfl⟩

theorem witness_PushWritesTheBackSlot :
    (qu 7 7 8).count = 8 ∧ (qu 0 7 7).count ≠ 8 ∧ (qu 0 0 0).count ≠ 8 ∧ (0 : BitVec QIW) ≠ (qu 7 7 8).back := by decide

theorem witness_PushAppendsToTheContent :
    ((qu 7 7 8).WellFormed ∧ (qu 7 7 8).content.length = 8) ∧
    ((qu 0 7 7).WellFormed ∧ (qu 0 7 7).content.length ≠ 8) ∧
    ((qu 3 3 0).WellFormed ∧ (qu 3 3 0).content.length ≠ 8) := by decide

theorem witness_PopTakesTheFrontSlot :
    ((fresh [] []).cfg.eventMode = .queue ∧ (fresh [] []).q.count = 0) ∧
    ((running [] []).cfg.eventMode = .queue ∧ (running [] []).q.count ≠ 0) ∧
    (runningIn .callback []).cfg.eventMode ≠ .queue ∧
    ((0x3001#16).extractLsb' 12 4 = 3#4 ∧ 0x3001#16 ≠ 0x3000#16) := by decide

theorem witness_PopTakesTheOldestEvent :
    ((fresh [] []).q.WellFormed ∧ (fresh [] []).cfg.eventMode = .queue ∧ (fresh [] []).q.content = []) ∧
    ((running [] []).q.WellFormed ∧ (running [] []).q.content = [evw 0x000, evw 0x101]) := by decide

theorem witness_OverflowKeepsTheMostRecent :
    (qu 7 1 2).WellFormed ∧ 8 ≤ (List.replicate 8 (evw 0x101)).length := by decide

/-- The four clauses: in RUN; no button; a zero threshold; the smallest and the largest good threshold, with an
environment that completes everything or just enough. -/
theorem witness_InitSeedsEveryButton :
    ((running [] []).WellFormed ∧ (running [] []).phase = .run) ∧
    ((st [] .uninit [] (qu 0 0 0) [] []).WellFormed ∧ (st [] .uninit [] (qu 0 0 0) [] []).cfg.n = 0) ∧
    ((st [3, 0] .uninit [low, low] (qu 0 0 0) [] []).WellFormed ∧
      ∃ i < (st [3, 0] .uninit [low, low] (qu 0 0 0) [] []).cfg.n,
        (st [3, 0] .uninit [low, low] (qu 0 0 0) [] []).cfg.threshold i = 0) ∧
    ((st [1, 255] .uninit [low, low] (qu 0 0 0) [] []).WellFormed ∧
      1 ≤ (st [1, 255] .uninit [low, low] (qu 0 0 0) [] []).cfg.n ∧
      ∀ i < (st [1, 255] .uninit [low, low] (qu 0 0 0) [] []).cfg.n,
        (st [1, 255] .uninit [low, low] (qu 0 0 0) [] []).cfg.threshold i ≠ 0) ∧
    ((st [1, 255] .uninit [low, low] (qu 0 0 0) [] []).completes 2 = true ∧
      { st [1, 255] .uninit [low, low] (qu 0 0 0) [] [] with stallAfter := some 2 : State }.completes 2 = true) ∧
    ((0x10FF#16).extractLsb' 12 4 = 1#4 ∧ 0x10FF#16 ≠ 0x1000#16) :=
  ⟨by decide, by decide, ⟨by decide, 1, by decide, by decide⟩, by decide, by decide, by decide⟩

theorem witness_InitSucceedsExactlyOnGoodConfig :
    (fresh [] []).phase = .uninit ∧ (fresh [] []).completes (fresh [] []).cfg.n = true ∧ 1 ≤ (fresh [] []).cfg.n ∧
    ∀ i < (fresh [] []).cfg.n, 1 ≤ ((fresh [] []).cfg.threshold i).toNat := by decide

theorem witness_UpdateTicksEveryButton :
    ((fresh [] []).WellFormed ∧ (fresh [] []).cfg.eventMode = .queue ∧ (fresh [] []).phase = .uninit) ∧
    ((running [] [true, false]).WellFormed ∧ (running [] []).cfg.eventMode = .queue ∧ (running [] []).phase = .run ∧
      (running [] []).completes (running [] []).cfg.n = true ∧
      ∀ i < (running [] []).cfg.n, (running [] []).cfg.threshold i ≠ 0) ∧
    ((0x2001#16).extractLsb' 12 4 = 2#4 ∧ 0x2001#16 ≠ 0x2000#16) := by decide

/-- In callback mode also with an environment that completes just enough. -/
theorem witness_UpdateOutsideQueueMode :
    ((fresh [] [] .callback).WellFormed ∧ (fresh [] [] .callback).cfg.eventMode ≠ .queue ∧
      (fresh [] [] .callback).phase = .uninit) ∧
    ((runningIn .callback []).WellFormed ∧ (runningIn .callback []).cfg.eventMode = .callback ∧
      (runningIn .callback []).phase = .run ∧ ∀ i < 2, (runningIn .callback []).cfg.threshold i ≠ 0) ∧
    ((runningIn .none []).WellFormed ∧ (runningIn .none []).cfg.eventMode = .none ∧
      (runningIn .none []).phase = .run ∧ (runningIn .none [true, false]).completes 2 = true) ∧
    ((runningIn .callback [true, false]).completes (runningIn .callback [true, false]).tickPorts.length = true ∧
      (runningIn .callback [true, false]).tickPorts.length = 4 ∧
      { runningIn .callback [true, false] with stallAfter := some 4 : State }.completes 4 = true) := by decide

theorem witness_UpdateWithZeroThresholdStops :
    (st [3, 0] .run [low, low] (qu 0 0 0) [] []).phase = .run ∧ 1 < (st [3, 0] .run [low, low] (qu 0 0 0) [] []).cfg.n ∧
    (st [3, 0] .run [low, low] (qu 0 0 0) [] []).cfg.threshold 1 = 0 := by decide

/-- Both buttons have an event in this tick, pushed in queue mode and delivered in callback mode. -/
theorem witness_EventsOfATickAscend :
    ((running [] [true, false]).WellFormed ∧ (running [] []).phase = .run ∧
      ∃ t, exec .update (running [] [true, false]) = .next t ∧ t.busy = none ∧
        (running [] [true, false]).Distributed t [evw 0x100, evw 0x001]) ∧
    ((runningIn .callback [true, false]).WellFormed ∧ (runningIn .callback []).phase = .run ∧
      ∃ t, exec .update (runningIn .callback [true, false]) = .next t ∧ t.busy = none ∧
        (runningIn .callback [true, false]).Distributed t [evw 0x100, evw 0x001]) :=
  ⟨⟨by decide, rfl, _, rfl, rfl, by decide⟩, ⟨by decide, rfl, _, rfl, rfl, by decide⟩⟩

/-- Button 1 alike in two instances whose button 0, queue and samples differ. -/
theorem witness_ButtonsDoNotAffectEachOther :
    (running [] [true, false]).WellFormed ∧
    (st [7, 1] .run [low, bt 1 true true false] (qu 0 0 0) [] [false, false]).WellFormed ∧
    (running [] [true, false]).button 1 = (st [7, 1] .run [low, bt 1 true true false] (qu 0 0 0) [] []).button 1 ∧
    (running [] [true, false]).answer 1 =
      (st [7, 1] .run [low, bt 1 true true false] (qu 0 0 0) [] [false, false]).answer 1 ∧
    (∃ t, exec .update (running [] [true, false]) = .next t ∧ t.busy = none) ∧
    (∃ t, exec .update (st [7, 1] .run [low, bt 1 true true false] (qu 0 0 0) [] [false, false]) = .next t ∧
      t.busy = none) :=
  ⟨by decide, by decide, by decide, by decide, ⟨_, rfl, rfl⟩, ⟨_, rfl, rfl⟩⟩

/-- Button 0 rises and button 1, the last one, falls, in queue mode and in callback mode. -/
theorem witness_FlipIsLatchedAndPushed :
    ((running [] [true, false]).WellFormed ∧ (running [] []).phase = .run ∧ 1 < (running [] []).cfg.n ∧
      ∃ t, exec .update (running [] [true, false]) = .next t ∧ t.busy = none ∧ (t.button 0).current = true ∧
        (t.button 1).current = false) ∧
    ((runningIn .callback [true, false]).WellFormed ∧ (runningIn .callback []).phase = .run ∧
      ∃ t, exec .update (runningIn .callback [true, false]) = .next t ∧ t.busy = none ∧
        (t.button 0).current = true ∧ (t.button 1).current = false) :=
  ⟨⟨by decide, rfl, by decide, _, rfl, rfl, by decide, by decide⟩,
    ⟨by decide, rfl, _, rfl, rfl, by decide, by decide⟩⟩

theorem witness_LatchesHaveTheirCauses :
    (running [] [true, false]).WellFormed ∧ 1 < (running [] []).cfg.n ∧
    (∃ t, exec .update (running [] [true, false]) = .next t) ∧
    (∃ t, exec (.consumeChanged 1) (running [] []) = .next t ∧ ((running [] []).button 1).rising = true ∧
      (t.button 1).rising = false) ∧
    (∃ t, exec (.consumeFalling 0) (running [] []) = .next t ∧ ((running [] []).button 0).falling = true ∧
      (t.button 0).falling = false) :=
  ⟨by decide, by decide, ⟨_, rfl⟩, ⟨_, rfl, by decide, by decide⟩, ⟨_, rfl, by decide, by decide⟩⟩

/-- A counter, the ring and `front` each change in one of these. -/
theorem witness_FieldsAreWrittenByTheirCommands :
    (∃ t, exec .update (running [] [true, false]) = .next t ∧
      (t.button 0).counter ≠ ((running [] []).button 0).counter ∧ t.q.back ≠ (running [] []).q.back) ∧
    (∃ t, exec .pop (running [] []) = .next t ∧ t.q.front ≠ (running [] []).q.front) ∧
    (∃ t, exec (.consumeRising 1) (running [] []) = .next t ∧ (0 : Nat) ≠ (1#8).toNat) :=
  ⟨⟨_, rfl, by decide, by decide⟩, ⟨_, rfl, by decide⟩, ⟨_, rfl, by decide⟩⟩

/-- Completed, refused, and waiting after the first of two pins. -/
theorem witness_PinReadsPerCommand :
    (∃ t, exec .init (fresh [] [true, false]) = .next t ∧ t.busy = none ∧ t.rsp = some 0x0000#16) ∧
    (∃ t, exec .update (running [] [true, false]) = .next t ∧ t.busy = none ∧ t.rsp = some 0x0000#16) ∧
    (∃ t, exec .update (fresh [] [true, false]) = .next t ∧ t.busy = none ∧ t.rsp = some 0x2000#16) ∧
    (∃ t, (callback (some 1) []).busy = none ∧ exec .update (callback (some 1) []) = .next t ∧ t.busy ≠ none) :=
  ⟨⟨_, rfl, rfl, rfl⟩, ⟨_, rfl, rfl, rfl⟩, ⟨_, rfl, rfl, rfl⟩, ⟨_, rfl, rfl, by decide⟩⟩

/-- An `INIT` at once, an `INIT` after waiting, and both kinds of reset. -/
theorem witness_PhaseChangesByInitAndReset :
    (∃ t, step (fresh [.command 0x1000#16] [true, false]) = .next t ∧ t.phase = .run) ∧
    (∃ t, step { fresh [.environment none] [true, false] with
        stallAfter := some 0, busy := some { command := .init, done := [.pinRead 0] } } = .next t ∧ t.phase = .run) ∧
    (∃ t, step (running [.reset] []) = .next t ∧ t.phase = .uninit) ∧
    (∃ t, step (running [.resetDuring 0x4000#16 0] []) = .next t ∧ t.phase = .uninit) :=
  ⟨⟨_, rfl, rfl⟩, ⟨_, rfl, rfl⟩, ⟨_, rfl, rfl⟩, ⟨_, rfl, rfl⟩⟩

theorem witness_ConfigurationIsNeverWritten :
    ∃ t, step (running [.command 0x2000#16] [true, false]) = .next t := ⟨_, rfl⟩

/-- An `UPDATE`, and an `UPDATE` that waits and is then served. -/
theorem witness_EveryStepKeepsTheInvariant :
    ((running [.command 0x2000#16] [true, false]).Inv ∧
      ∃ t, step (running [.command 0x2000#16] [true, false]) = .next t) ∧
    ((waiting [.environment none]).Inv ∧ ∃ t, step (waiting [.environment none]) = .next t) :=
  ⟨⟨by decide, _, rfl⟩, ⟨by decide, _, rfl⟩⟩

theorem witness_ResetMeetsTheInvariant :
    Config.WellFormed { straps := [], eventMode := .none } ∧ Config.sample.WellFormed := by decide

theorem witness_NoStepStopsUnderTheInvariant :
    (running [.command 0xFFFF#16] []).Inv ∧ (waiting [.environment (some 1)]).Inv := ⟨by decide, by decide⟩

theorem witness_QueueStaysInAgreementWithLevels :
    (running [.command 0x2000#16] [true, false]).Inv ∧ (running [.command 0x2000#16] [true, false]).QueueAgrees ∧
    ∃ t, step (running [.command 0x2000#16] [true, false]) = .next t := ⟨by decide, by decide, _, rfl⟩

/-- The last of two buttons, with threshold 2: its two samples are the second and the fourth answer. -/
theorem witness_ThresholdUpdatesRaiseAButton :
    let s := st [3, 2] .run [bt 2 true true false, low] (qu 0 1 1 [0x100])
      [.command 0x2000#16, .command 0x2000#16, .command 0x4001#16] [false, true, false, true]
    s.Inv ∧ s.phase = .run ∧ s.busy = none ∧ s.stallAfter = none ∧ 1 < s.cfg.n ∧ (s.button 1).counter = 0 ∧
    s.host = List.replicate (s.cfg.threshold 1).toNat (.command 0x2000#16) ++ [.command 0x4001#16] ∧
    ∀ m < (s.cfg.threshold 1).toNat, s.answer (m * s.cfg.n + 1) = true := by decide

/-- `INIT` and `UPDATE` with an environment that completes nothing, all but the last, and just enough; and a command that
uses no port. -/
theorem witness_CommandsWaitForTheEnvironment :
    (fresh [] []).UsesPorts .init ∧ ((fresh [] []).actionsOf .init).length = 2 ∧
    (callback none []).UsesPorts .update ∧ ((callback none []).actionsOf .update).length = 4 ∧
    [0, 3].all (fun k => (callback (some k) []).stallAfter == some k &&
      k < ((callback (some k) []).actionsOf .update).length) = true ∧
    (callback (some 4) []).completes ((callback (some 4) []).actionsOf .update).length = true ∧
    ¬ (running [] []).UsesPorts (.read 1) ∧ (∃ t, exec (.read 1) (running [] []) = .next t) :=
  ⟨.inl (by decide), by decide, .inr (by decide), by decide, by decide, by decide,
    by decide, _, rfl⟩

theorem witness_WaitingBlockIsStuckUntilServed :
    (waiting []).busy = some { command := .update, done := [.pinRead 0] } ∧ (waiting []).host = [] ∧
    (waiting [.command 0x4000#16]).host = [.command 0x4000#16] ∧
    (waiting [.resetDuring 0x2000#16 1]).host = [.resetDuring 0x2000#16 1] ∧
    (waiting [.environment (some 1)]).host = [.environment (some 1)] := ⟨rfl, rfl, rfl, rfl, rfl⟩

/-- Held up at once, and at the last of its port actions. -/
theorem witness_WaitingEndsAsIfServedAtOnce :
    [0, 3].all (fun k =>
      (callback (some k) [.command 0x2000#16, .environment none]).busy == none &&
      nextIs (step (callback (some k) [.command 0x2000#16, .environment none]))
        (fun t => t.busy.isSome)) = true ∧
    (callback (some 3) [.command 0x2000#16, .environment none]).Inv := by decide

end Sys2Proof.Tests
end

section
/-! SUPPORT. What each command and each step writes, and the statements of 10_state.md that follow from it. -/

namespace Sys2Proof

/-- A word that decodes to a command is that command's word (R71 to R73). -/
theorem encode_of_decode_command {mode : EventMode} {w : Word} {i : Instr} (h : decode mode w = .command i) :
    encode i = w := by
  have hrsv : rsvField w = 0 := by
    by_contra hne
    rw [decode, if_pos hne] at h
    cases h
  rw [← commandWord_of_fields w hrsv] at h ⊢
  generalize opField w = op, idxField w = idx at h ⊢
  have hop : BitVec.ofNat 4 op.toNat = op := by simp
  rw [decode_commandWord] at h
  rw [← hop]
  split at h
  case h_8 => cases h
  all_goals rename_i hk; rw [hk]
  case h_1 | h_2 | h_3 => split_ifs at h; cases h; simp [encode, *]
  all_goals cases h; rfl

namespace Machine

/-! ### One button -/

/-- STEP sets the rising latch exactly on a flip to high (R25). -/
theorem Button.step_rising_of_flip {T : Count} (hT : T ≠ 0) (a : Bool) (b : Button) :
    (Button.step T a b).1.rising = (b.rising || (!b.current && (Button.step T a b).1.current)) := by
  rcases Button.step_cases hT a b with ⟨-, -, hcur, e⟩ | ⟨-, -, e⟩ | ⟨-, -, -, e⟩ | ⟨-, -, e⟩ <;> simp [*]

/-- STEP sets the falling latch exactly on a flip to low (R26). -/
theorem Button.step_falling_of_flip {T : Count} (hT : T ≠ 0) (a : Bool) (b : Button) :
    (Button.step T a b).1.falling = (b.falling || (b.current && !(Button.step T a b).1.current)) := by
  rcases Button.step_cases hT a b with ⟨-, -, -, e⟩ | ⟨-, -, e⟩ | ⟨-, -, hcur, e⟩ | ⟨-, -, e⟩ <;> simp [*]

/-- Beyond the table a button reads as its reset record (log 11). -/
theorem State.button_of_length_le {s : State} {j : Nat} (h : s.btn.length ≤ j) : s.button j = Button.reset := by
  simp [State.button, List.getD, h]

/-- Rewriting button `k` rewrites that one, if the table has it, and leaves the others. -/
theorem State.button_setButton_cases (s : State) (f : Button → Button) (k j : Nat) :
    (s.setButton k (f (s.button k))).button j = s.button j ∨
    (k = j ∧ (s.setButton k (f (s.button k))).button j = f (s.button j)) := by
  by_cases e : k = j
  · subst e
    rcases Nat.lt_or_ge k s.btn.length with hk | hk
    · exact .inr ⟨rfl, s.button_setButton_self _ hk⟩
    · left
      rw [State.button_of_length_le hk, State.button_of_length_le (by simpa using hk)]
  · exact .inl (s.button_setButton_ne _ e)

/-- `INIT`'s loop seeds a button or leaves it (R151). -/
theorem forButtons_init_button_cases (s : State) (n j : Nat) :
    (forButtons initButton n s).button j = s.button j ∨
    (forButtons initButton n s).button j = Button.seed (s.cfg.threshold j) (s.answer j) := by
  obtain ⟨-, -, -, -, -, -, -, hlen, -, -, hge, hlt⟩ := forButtons_init s n
  by_cases hn : n ≤ j
  · exact .inl (hge j hn)
  by_cases hb : s.btn.length ≤ j
  · left; rw [State.button_of_length_le hb, State.button_of_length_le (hlen ▸ hb)]
  · exact .inr (hlt j (by omega) (by omega))

/-- `UPDATE`'s loop steps a button below its bound or leaves it (R154). -/
theorem forButtons_tick_button_cases (s : State) (n j : Nat) :
    (forButtons tickButton n s).button j = s.button j ∨
    (j < n ∧ (forButtons tickButton n s).button j = (s.tickOf j).1) := by
  obtain ⟨-, -, -, -, -, -, hlen, -, -, -, hge, hlt⟩ := forButtons_tick s n
  by_cases hn : n ≤ j
  · exact .inl (hge j hn)
  by_cases hb : s.btn.length ≤ j
  · left; rw [State.button_of_length_le hb, State.button_of_length_le (hlen ▸ hb)]
  · exact .inr ⟨by omega, hlt j (by omega) (by omega)⟩

/-! ### What a command writes -/

/-- Everything a command can do to button `j`. -/
theorem exec_button_cases {i : Instr} {s t : State} (h : exec i s = .next t) (j : Nat) :
    t.button j = s.button j ∨
    (i = .init ∧ t.button j = Button.seed (s.cfg.threshold j) (s.answer j)) ∨
    (i = .update ∧ s.cfg.threshold j ≠ 0 ∧ t.button j = (s.tickOf j).1) ∨
    ∃ k : ButtonIndex, k.toNat = j ∧
      ((i = .consumeRising k ∧ t.button j = (s.button j).clearRising) ∨
       (i = .consumeFalling k ∧ t.button j = (s.button j).clearFalling) ∨
       (i = .consumeChanged k ∧ t.button j = (s.button j).clearBoth)) := by
  rcases exec_next_cases h with ⟨st, -, rfl⟩ | ⟨-, -, rfl⟩ | ⟨hi, -, -, -, rfl⟩ | ⟨hi, -, hT, -, rfl⟩ |
    ⟨-, -, -, rfl⟩ | ⟨ev, q, -, -, -, rfl⟩ | ⟨k, -, -, rfl⟩ | ⟨k, hi, -, rfl⟩ | ⟨k, hi, -, rfl⟩ | ⟨k, hi, -, rfl⟩
  · exact .inl rfl
  · exact .inl rfl
  · exact (forButtons_init_button_cases s s.cfg.n j).imp_right fun e => .inl ⟨hi, e⟩
  · exact (forButtons_tick_button_cases s s.cfg.n j).imp_right fun ⟨hj, e⟩ =>
      .inr (.inl ⟨hi, (Config.thresholdsOk_iff _).1 hT j hj, e⟩)
  · exact .inl rfl
  · exact .inl rfl
  · exact .inl rfl
  · exact (s.button_setButton_cases Button.clearRising k.toNat j).imp_right fun ⟨hk, e⟩ =>
      .inr (.inr ⟨k, hk, .inl ⟨hi, e⟩⟩)
  · exact (s.button_setButton_cases Button.clearFalling k.toNat j).imp_right fun ⟨hk, e⟩ =>
      .inr (.inr ⟨k, hk, .inr (.inl ⟨hi, e⟩)⟩)
  · exact (s.button_setButton_cases Button.clearBoth k.toNat j).imp_right fun ⟨hk, e⟩ =>
      .inr (.inr ⟨k, hk, .inr (.inr ⟨hi, e⟩)⟩)

/-- Everything a command can do to the queue. -/
theorem exec_q_cases {i : Instr} {s t : State} (h : exec i s = .next t) :
    t.q = s.q ∨ i = .update ∨ (i = .pop ∧ ∃ ev, s.q.pop? = some (ev, t.q)) := by
  rcases exec_next_cases h with ⟨st, -, rfl⟩ | ⟨-, -, rfl⟩ | ⟨-, -, -, -, rfl⟩ | ⟨hi, -⟩ |
    ⟨-, -, -, rfl⟩ | ⟨ev, q, hi, -, hq, rfl⟩ | ⟨k, -, -, rfl⟩ | ⟨k, -, -, rfl⟩ | ⟨k, -, -, rfl⟩ | ⟨k, -, -, rfl⟩
  · exact .inl rfl
  · exact .inl rfl
  · exact .inl (forButtons_init s s.cfg.n).2.1
  · exact .inr (.inl hi)
  · exact .inl rfl
  · exact .inr (.inr ⟨hi, ev, hq⟩)
  all_goals exact .inl rfl

/-- No command writes the configuration (R21). -/
theorem exec_cfg {i : Instr} {s t : State} (h : exec i s = .next t) : t.cfg = s.cfg := by
  rcases exec_next_cases h with ⟨st, -, rfl⟩ | ⟨-, -, rfl⟩ | ⟨-, -, -, -, rfl⟩ | ⟨-, -, -, -, rfl⟩ |
    ⟨-, -, -, rfl⟩ | ⟨ev, q, -, -, -, rfl⟩ | ⟨k, -, -, rfl⟩ | ⟨k, -, -, rfl⟩ | ⟨k, -, -, rfl⟩ | ⟨k, -, -, rfl⟩
  · rfl
  · rfl
  · exact (forButtons_init s s.cfg.n).1
  · exact (forButtons_tick s s.cfg.n).1
  all_goals rfl

/-- A command leaves the phase, or is an `INIT` that answers 0x0000 (R37). -/
theorem exec_phase_cases {i : Instr} {s t : State} (h : exec i s = .next t) :
    t.phase = s.phase ∨ (i = .init ∧ t.phase = .run ∧ t.rsp = some 0x0000#16) := by
  rcases exec_next_cases h with ⟨st, -, rfl⟩ | ⟨-, -, rfl⟩ | ⟨hi, -, -, -, rfl⟩ | ⟨-, -, -, -, rfl⟩ |
    ⟨-, -, -, rfl⟩ | ⟨ev, q, -, -, -, rfl⟩ | ⟨k, -, -, rfl⟩ | ⟨k, -, -, rfl⟩ | ⟨k, -, -, rfl⟩ | ⟨k, -, -, rfl⟩
  · exact .inl rfl
  · exact .inl rfl
  · exact .inr ⟨hi, rfl, rfl⟩
  · exact .inl (forButtons_tick s s.cfg.n).2.1
  all_goals exact .inl rfl

/-- `POP` writes no button (R132). -/
theorem exec_pop_btn {s t : State} (h : exec .pop s = .next t) : t.btn = s.btn := by
  simp only [exec, execPop] at h
  split at h
  · split at h <;> cases h <;> rfl
  · cases h; rfl

/-- `POP` on the ring moves `front` and `count` only (R132). -/
theorem Queue.pop?_frame {q q' : Queue} {ev : Event} (h : q.pop? = some (ev, q')) :
    q'.buf = q.buf ∧ q'.back = q.back := by
  unfold Queue.pop? at h
  split at h <;> cases h
  exact ⟨rfl, rfl⟩

/-! ### What a step writes -/

/-- For configuration and phase a step is one of three: it keeps them, it resets the block, or it executes a command `i`
in some state `u` that has them from `s`, `i` being the word taken or the command that waited. -/
theorem step_exec_cases {s t : State} (h : step s = .next t) :
    (t.cfg = s.cfg ∧ t.phase = s.phase) ∨
    (t.cfg = s.cfg ∧ t.phase = .uninit ∧
      ∃ rest, s.host = .reset :: rest ∨ ∃ w k, s.host = .resetDuring w k :: rest) ∨
    (∃ i u, u.cfg = s.cfg ∧ u.phase = s.phase ∧ exec i u = .next t ∧
      ∃ rest, s.host = .command (encode i) :: rest ∨
        ∃ e w, s.host = .environment e :: rest ∧ s.busy = some w ∧ w.command = i) := by
  rcases step_next_cases h with ⟨-, rfl⟩ | ⟨x, rest, -, -, -, rfl⟩ | ⟨w, rest, hh, -, hw⟩ | ⟨rest, hh, rfl⟩ |
    ⟨w, k, rest, hh, -, rfl⟩ | ⟨e, rest, hh, he⟩
  · exact .inl ⟨rfl, rfl⟩
  · exact .inl ⟨rfl, rfl⟩
  · rcases executeWord_next_cases hw with ⟨why, -, rfl⟩ | ⟨i, hd, hx⟩
    · exact .inl ⟨rfl, rfl⟩
    · exact .inr (.inr ⟨i, s.accept rest, rfl, rfl, hx, rest, .inl (encode_of_decode_command hd ▸ hh)⟩)
  · exact .inr (.inl ⟨rfl, rfl, rest, .inl hh⟩)
  · exact .inr (.inl ⟨rfl, rfl, rest, .inr ⟨w, k, hh⟩⟩)
  · rcases changeEnvironment_next_cases he with ⟨-, rfl⟩ | ⟨w, hb, hx⟩
    · exact .inl ⟨rfl, rfl⟩
    · refine .inr (.inr ⟨w.command, _, ?_, ?_, hx, rest, .inr ⟨e, w, hh, hb, rfl⟩⟩) <;> rfl

/-! ### The statements -/

/-- Settles O43: each way a command can write a button record has its clause. -/
theorem latchesHaveTheirCauses : Obligations.LatchesHaveTheirCauses := by
  intro i s t j _ _ h
  rcases exec_button_cases h j with e | ⟨rfl, e⟩ | ⟨rfl, hT, e⟩ | ⟨k, hk, ⟨rfl, e⟩ | ⟨rfl, e⟩ | ⟨rfl, e⟩⟩
  · simp_all
  · simp_all [Button.seed]
  · have hr := Button.step_rising_of_flip hT (s.answer j) (s.button j)
    have hf := Button.step_falling_of_flip hT (s.answer j) (s.button j)
    rw [e, State.tickOf]
    refine ⟨fun _ => ⟨hr, hf⟩, fun hi => absurd rfl hi, fun hs ht => ?_, fun hs ht => ?_⟩
    · simp [hr, hs] at ht
    · simp [hf, hs] at ht
  all_goals simp_all [Button.clearRising, Button.clearFalling, Button.clearBoth]

/-- Settles O44, from what a command can do to one button, to the queue and, for `POP`, to the table. -/
theorem fieldsAreWrittenByTheirCommands : Obligations.FieldsAreWrittenByTheirCommands := by
  intro i s t h
  refine ⟨fun j hne => ?_, fun hne => ?_, fun hne => ?_, fun k j hk hj => ?_, ?_⟩
  · rcases exec_button_cases h j with e | ⟨hi, -⟩ | ⟨hi, -⟩ | ⟨k, -, ⟨-, e⟩ | ⟨-, e⟩ | ⟨-, e⟩⟩
    · simp [e] at hne
    · exact .inl hi
    · exact .inr hi
    all_goals simp [e, Button.clearRising, Button.clearFalling, Button.clearBoth] at hne
  · rcases exec_q_cases h with e | hi | ⟨-, ev, hq⟩
    · simp [e] at hne
    · exact hi
    · simp [Queue.pop?_frame hq] at hne
  · rcases exec_q_cases h with e | hi | ⟨hi, -⟩
    · simp [e] at hne
    · exact .inl hi
    · exact .inr hi
  · rcases exec_button_cases h j with e | ⟨rfl, -⟩ | ⟨rfl, -⟩ | ⟨k', rfl, ⟨rfl, -⟩ | ⟨rfl, -⟩ | ⟨rfl, -⟩⟩
    · exact e
    all_goals simp_all [Instr.index?]
  · rintro rfl
    exact exec_pop_btn h

/-- Settles O46: of the ways to step, only an executed `INIT` raises the phase and only a reset lowers it. -/
theorem phaseChangesByInitAndReset : Obligations.PhaseChangesByInitAndReset := by
  refine ⟨rfl, rfl, fun s t h hs ht => ?_, fun s t h hs ht => ?_⟩
  · rcases step_exec_cases h with ⟨-, hp⟩ | ⟨-, hp, -⟩ | ⟨i, u, -, hu, hx, hsrc⟩
    · simp [hp, hs] at ht
    · simp [hp] at ht
    · rcases exec_phase_cases hx with hp | ⟨rfl, -, hrsp⟩
      · simp [hp, hu, hs] at ht
      · exact ⟨hrsp, hsrc⟩
  · rcases step_exec_cases h with ⟨-, hp⟩ | ⟨-, -, hsrc⟩ | ⟨i, u, -, hu, hx, -⟩
    · simp [hp, hs] at ht
    · exact hsrc
    · rcases exec_phase_cases hx with hp | ⟨-, hp, -⟩ <;> simp [hp, hu, hs] at ht

/-- Settles O47: a command keeps the configuration, and so does every step that executes none. -/
theorem configurationIsNeverWritten : Obligations.ConfigurationIsNeverWritten := by
  intro s t h
  rcases step_exec_cases h with ⟨hc, -⟩ | ⟨hc, -⟩ | ⟨i, u, hu, -, hx, -⟩
  · exact hc
  · exact hc
  · exact (exec_cfg hx).trans hu

/-- Settles O12: the step is `applyReset` of the accepting state, whose buttons all read as `Button.reset`. -/
theorem resetLeavesTheResetValues : Obligations.ResetLeavesTheResetValues := by
  intro s rest h
  refine ⟨_, step_reset h, by simp, fun i => State.button_applyReset _ i, fun i => ?_,
    rfl, rfl, rfl, rfl, rfl, rfl, rfl, rfl, rfl, rfl, rfl⟩
  rw [State.button_applyReset]
  rfl

/-- Settles O22, bit by bit of the byte's three shifted flags. -/
theorem stateByteLayout : Obligations.StateByteLayout := by
  intro b
  have hhigh : b.stateByte.extractLsb' 4 4 = 0#4 := by
    ext k hk
    simp [Button.stateByte]
    omega
  refine ⟨?_, ?_, ?_, ?_, hhigh⟩ <;> simp [Button.stateByte]

/-- The reset state of a legal configuration meets the invariant (R34, R41). -/
theorem State.resetOf_inv {c : Config} (hc : c.WellFormed) : (State.resetOf c).Inv := by
  have hwf : (State.resetOf c).WellFormed := ⟨hc, List.length_replicate, Queue.reset_wellFormed⟩
  refine ⟨hwf, fun _ => ⟨fun i _ => State.button_resetOf c i, rfl⟩, fun hrun => ?_, fun _ => rfl, fun w hw => ?_⟩
  · cases hrun
  · cases hw

/-- Settles O49; `State.reset` is the case of `Config.sample`. -/
theorem resetMeetsTheInvariant : Obligations.ResetMeetsTheInvariant :=
  ⟨fun _ hc => State.resetOf_inv hc, State.resetOf_inv (by decide)⟩

end Machine

end Sys2Proof
end

section
/-! SUPPORT. What the reads, the consumes and the scans make of latches, responses and pins, and the statements of
20_memory.md that follow from it. -/

namespace Sys2Proof

/-! ### The latch a consume answers -/

/-- The command is one of the three consumes, of button `k` (R63). -/
abbrev Instr.Consumes (c : Instr) (k : ButtonIndex) : Prop :=
  c = .consumeRising k ∨ c = .consumeFalling k ∨ c = .consumeChanged k

/-- What a consume answers of its button's record; no other command answers a latch (R105 to R107). -/
def Instr.latch : Instr → Machine.Button → Bool
  | .consumeRising _,  b => b.rising
  | .consumeFalling _, b => b.falling
  | .consumeChanged _, b => b.changed
  | _,                 _ => false

/-- What a consume leaves of its button's record; no other command clears a latch as its effect (R105 to R107). -/
def Instr.consumed : Instr → Machine.Button → Machine.Button
  | .consumeRising _,  b => b.clearRising
  | .consumeFalling _, b => b.clearFalling
  | .consumeChanged _, b => b.clearBoth
  | _,                 b => b

theorem Instr.latch_consumed (c : Instr) (b : Machine.Button) : c.latch (c.consumed b) = false := by
  cases c <;> rfl

/-- With both latches no higher, what a consume would answer is no higher. -/
theorem Instr.latch_clear_of_le (c : Instr) {b b' : Machine.Button} (hr : b'.rising = true → b.rising = true)
    (hf : b'.falling = true → b.falling = true) (h : c.latch b = false) : c.latch b' = false := by
  cases c
  case consumeRising | consumeFalling | consumeChanged => simp_all [Instr.latch, Machine.Button.changed]
  all_goals rfl

namespace Machine

/-! ### Two READs -/

/-- The word that `READ i` is answered (R104). -/
def State.readWord (s : State) (i : ButtonIndex) : Word :=
  if s.hasButton i then responseWord .ok false false (boolVal (s.button i.toNat).current)
  else responseWord .errIndex false false 0

/-- `READ` writes the response and nothing else, good index or bad (R104). -/
theorem exec_read (s : State) (i : ButtonIndex) : exec (.read i) s = .next (s.setRsp (s.readWord i)) := by
  simp only [exec, execRead, State.readWord]
  split <;> rfl

/-- Settles O29: `READ` writes only the response, and its answer does not depend on the response before. -/
theorem readsCommute : Obligations.ReadsCommute := fun s i j =>
  ⟨s.readWord i, s.readWord j, exec_read s i, exec_read (s.setRsp (s.readWord i)) j,
    exec_read s j, exec_read (s.setRsp (s.readWord j)) i⟩

/-! ### Lists of commands -/

/-- What each command of a list keeps, the whole list keeps. -/
theorem runCommands_keeps {P : State → Prop} {cmds : List Instr}
    (hkeep : ∀ i ∈ cmds, ∀ s t, exec i s = .next t → P s → P t) {s t : State} (h : runCommands cmds s = some t)
    (hs : P s) : P t := by
  induction cmds generalizing s with
  | nil => cases h; exact hs
  | cons i is ih =>
    unfold runCommands at h
    split at h
    · next u hu =>
      exact ih (fun i' hi' => hkeep i' (.tail _ hi')) h (hkeep i (.head _) s u hu hs)
    · cases h

theorem runCommands_cfg {cmds : List Instr} {s t : State} (h : runCommands cmds s = some t) : t.cfg = s.cfg :=
  runCommands_keeps (P := fun u => u.cfg = s.cfg) (fun _ _ _ _ hx hu => (exec_cfg hx).trans hu) h rfl

/-! ### Consumes -/

/-- A consume of a button below `N` answers its latch and clears it (R105 to R107). -/
theorem exec_consume {c : Instr} {k : ButtonIndex} (hc : c.Consumes k) {s : State} (hk : k.toNat < s.cfg.n) :
    exec c s = .next (respond false false (boolVal (c.latch (s.button k.toNat)))
      (s.setButton k.toNat (c.consumed (s.button k.toNat)))) := by
  have hb : s.hasButton k = true := (s.hasButton_eq_true k).2 hk
  rcases hc with rfl | rfl | rfl
  · simp [exec, execConsumeRising, hb, Instr.latch, Instr.consumed]
  · simp [exec, execConsumeFalling, hb, Instr.latch, Instr.consumed]
  · simp [exec, execConsumeChanged, hb, Instr.latch, Instr.consumed]

/-- No command but `UPDATE` sets a latch (R25, R26). -/
theorem exec_latches_le {i : Instr} {s t : State} (h : exec i s = .next t) (hi : i ≠ .update) (j : Nat) :
    ((t.button j).rising = true → (s.button j).rising = true) ∧
    ((t.button j).falling = true → (s.button j).falling = true) := by
  rcases exec_button_cases h j with e | ⟨-, e⟩ | ⟨hu, -⟩ | ⟨k, -, ⟨-, e⟩ | ⟨-, e⟩ | ⟨-, e⟩⟩
  · simp [e]
  · simp [e, Button.seed]
  · exact absurd hu hi
  · simp [e, Button.clearRising]
  · simp [e, Button.clearFalling]
  · simp [e, Button.clearBoth]

/-- What a consume would answer stays 0 along commands without `UPDATE`. -/
theorem runCommands_latch_clear {cmds : List Instr} {s t : State} (h : runCommands cmds s = some t)
    (hup : Instr.update ∉ cmds) (c : Instr) (j : Nat) (hs : c.latch (s.button j) = false) :
    c.latch (t.button j) = false := by
  refine runCommands_keeps (P := fun u => c.latch (u.button j) = false) (fun i hi u v hx hu => ?_) h hs
  obtain ⟨hr, hf⟩ := exec_latches_le hx (fun e => hup (e ▸ hi)) j
  exact c.latch_clear_of_le hr hf hu

/-- Settles O28: the first consume clears the latch, no command before the second sets it, and the second answers it. -/
theorem secondConsumeAnswersZero : Obligations.SecondConsumeAnswersZero := by
  intro s t u k c cmds hwf hk hc hx hup hrun
  have hu : k.toNat < u.cfg.n := by rwa [runCommands_cfg hrun, exec_cfg hx]
  have ht : c.latch (t.button k.toNat) = false := by
    obtain ⟨-, hlen, -⟩ := hwf
    have hself := s.button_setButton_self (c.consumed (s.button k.toNat)) (hlen ▸ hk)
    rw [exec_consume hc hk] at hx
    cases hx
    exact (congrArg c.latch hself).trans (c.latch_consumed _)
  exact ⟨_, exec_consume hc hu, by rw [runCommands_latch_clear hrun hup c _ ht]; rfl⟩

/-! ### Pin reads -/

theorem State.initPorts_reads (s : State) : s.initPorts.filter PortAction.isRead = s.initPorts := by
  simp [State.initPorts, PortAction.isRead]

/-- The pin reads of a tick are those of `INIT`: each pin once, ascending (R58, R61). -/
theorem State.tickPorts_reads (s : State) : s.tickPorts.filter PortAction.isRead = s.initPorts := by
  rw [State.tickPorts, List.filter_flatMap, State.initPorts, List.map_eq_flatMap]
  congr 1
  funext i
  split
  · simp [List.filter_cons, List.filter_eq_nil_iff, PortAction.isRead]
  · rfl

theorem State.UsesPorts.reads {s : State} {i : Instr} (h : s.UsesPorts i) :
    (s.actionsOf i).filter PortAction.isRead = s.initPorts := by
  rcases h with ⟨rfl, -⟩ | ⟨rfl, -⟩
  · exact s.initPorts_reads
  · exact s.tickPorts_reads

/-- A refusal is not answered as a success is (R77). -/
theorem refuse_rsp_ne_ok {st : Status} (h : st ≠ .ok) (s : State) : (refuse st s).rsp ≠ some 0x0000#16 := by
  rw [refuse_word]
  cases st
  case ok => exact absurd rfl h
  all_goals decide

/-- Everything a command can do at the ports: it waits, it completes its port actions, or it uses no port (R58, R201). -/
theorem exec_ports_cases {i : Instr} {s t : State} (h : exec i s = .next t) :
    (s.UsesPorts i ∧ t = s.hang i (s.allowed (s.actionsOf i))) ∨
    (s.UsesPorts i ∧ t.rsp = some 0x0000#16 ∧ t.busy = s.busy ∧ t.ports = s.ports ++ s.actionsOf i ∧
      t.pins = (s.skipAnswers s.cfg.n).pins ∧ t.draws = (s.skipAnswers s.cfg.n).draws) ∨
    (¬((i = .init ∨ i = .update) ∧ t.rsp = some 0x0000#16) ∧ t.busy = s.busy ∧ t.ports = s.ports ∧
      t.pins = s.pins ∧ t.draws = s.draws) := by
  rcases exec_next_cases h with ⟨st, hst, rfl⟩ | ⟨hp, -, rfl⟩ | ⟨rfl, hph, hok, -, rfl⟩ | ⟨rfl, hph, hok, -, rfl⟩ |
    ⟨rfl, -, -, rfl⟩ | ⟨ev, q, rfl, -, -, rfl⟩ | ⟨k, rfl, -, rfl⟩ | ⟨k, rfl, -, rfl⟩ | ⟨k, rfl, -, rfl⟩ |
    ⟨k, rfl, -, rfl⟩
  · exact .inr (.inr ⟨fun ⟨_, hr⟩ => refuse_rsp_ne_ok hst s hr, rfl, rfl, rfl, rfl⟩)
  · exact .inl ⟨hp, rfl⟩
  · obtain ⟨-, -, -, -, -, hpins, hdraws, -, hports, -⟩ := forButtons_init s s.cfg.n
    exact .inr (.inl ⟨.inl ⟨rfl, hph, hok⟩, rfl, (forButtons_init_env s.cfg.n s).2, hports, hpins, hdraws⟩)
  · obtain ⟨-, -, -, -, hpins, hdraws, -, -, hports, -⟩ := forButtons_tick s s.cfg.n
    exact .inr (.inl ⟨.inr ⟨rfl, hph, hok⟩, rfl, (forButtons_tick_env s.cfg.n s).2, hports, hpins, hdraws⟩)
  all_goals exact .inr (.inr ⟨by simp, rfl, rfl, rfl, rfl⟩)

/-- Settles O45, by the three things a command can do at the ports. -/
theorem pinReadsPerCommand : Obligations.PinReadsPerCommand := by
  intro i s t h
  rcases exec_ports_cases h with ⟨hp, rfl⟩ | ⟨hp, hrsp, hbusy, hports, hpins, -⟩ | ⟨hno, hbusy, hports, hpins, hdraws⟩
  · have hprefix := (s.allowed_prefix (s.actionsOf i)).filter PortAction.isRead
    rw [hp.reads] at hprefix
    exact ⟨_, rfl, by simp, fun _ _ => ⟨hprefix, rfl, rfl⟩, by simp⟩
  · refine ⟨_, hports, fun _ _ _ => ⟨hp.reads, hpins⟩, fun hs ht => absurd (hbusy.trans hs) ht, fun _ hn => ?_⟩
    exact absurd ⟨hp.imp (·.1) (·.1), hrsp⟩ hn
  · refine ⟨[], by simpa using hports, fun hi _ hr => absurd ⟨hi, hr⟩ hno, fun hs ht => absurd (hbusy.trans hs) ht,
      fun _ _ => ⟨rfl, hpins, hdraws⟩⟩

end Machine

end Sys2Proof
end

section
/-! SUPPORT. Words and commands, what a command is answered and when it waits, the queue against the levels, and the
statements of 30_encoding.md that follow from it. -/

namespace Sys2Proof

/-! ### Words and commands -/

/-- A word that decodes to `POP` does so in queue mode (R36, R78). -/
theorem queue_of_decode_pop {mode : EventMode} {w : Word} (h : decode mode w = .command .pop) : mode = .queue := by
  by_contra hm
  rw [← encode_of_decode_command h, encode, decode_commandWord] at h
  simp [hm] at h

/-- Settles O1, by the decoder's equation on words with `RSV = 0`. -/
theorem decodeOfEncodeIsTheCommand : Obligations.DecodeOfEncodeIsTheCommand := by
  intro mode i hi
  cases i with
  | pop => rw [encode, decode_commandWord]; simp [hi rfl]
  | _ => rw [encode, decode_commandWord]; rfl

/-- Settles O2: the fields of a decoded word make the command's word, and `POP` needs queue mode. -/
theorem encodeOfDecodeIsTheWord : Obligations.EncodeOfDecodeIsTheWord := by
  rintro mode w i h
  exact ⟨encode_of_decode_command h, fun hi => queue_of_decode_pop (hi ▸ h)⟩

/-- In queue mode, which has every command, decoding is the inverse of encoding (R71 to R73). -/
theorem decode_queue_eq_command_iff {w : Word} {i : Instr} : decode .queue w = .command i ↔ w = encode i := by
  constructor
  · intro h; exact (encode_of_decode_command h).symm
  · rintro rfl; exact decodeOfEncodeIsTheCommand .queue i fun _ => rfl

/-- The mask of the indexed rows keeps `OP` and `RSV` and drops `IDX` (R73). -/
theorem commandWord_and_mask (op : BitVec 4) (idx : ButtonIndex) :
    commandWord op idx &&& 0xFF00#16 = commandWord op 0 := by
  have hmask : ∀ k < 16, (0xFF00#16).getLsbD k = decide (8 ≤ k) := by decide
  refine BitVec.eq_of_getLsbD_eq fun k hk => ?_
  rw [BitVec.getLsbD_and, hmask k hk]
  by_cases h8 : k < 8
  · have h12 : k < 12 := by omega
    simp [commandWord, h8, h12]
  · simp [commandWord, Nat.not_lt.1 h8]

/-- The words of an indexed row are `match + i`, and each of them matches the row (R73). -/
theorem eq_commandWord_iff (w : Word) (op : BitVec 4) (idx : ButtonIndex) :
    w = commandWord op idx ↔
      w &&& 0xFF00#16 = commandWord op 0 ∧ w = BitVec.ofNat 16 (op.toNat * 4096) + idx.setWidth 16 := by
  rw [← commandWord_eq_add]
  constructor
  · rintro rfl; exact ⟨commandWord_and_mask op idx, rfl⟩
  · exact And.right

/-- The match and the mask of a command's row (R73). -/
def rowOf : Instr → Word × Word
  | .init             => (0x1000#16, 0xFFFF#16)
  | .update           => (0x2000#16, 0xFFFF#16)
  | .pop              => (0x3000#16, 0xFFFF#16)
  | .read _           => (0x4000#16, 0xFF00#16)
  | .consumeRising _  => (0x5000#16, 0xFF00#16)
  | .consumeFalling _ => (0x6000#16, 0xFF00#16)
  | .consumeChanged _ => (0x7000#16, 0xFF00#16)

/-- The word of a command matches its row (R73). -/
theorem encode_and_mask (i : Instr) : encode i &&& (rowOf i).2 = (rowOf i).1 := by
  cases i
  case init | update | pop => rfl
  all_goals exact commandWord_and_mask _ _

/-- Two rows that differ where both masks look have no word in common. -/
theorem rows_disjoint {a b : Word × Word} (h : a.1 &&& b.2 ≠ b.1 &&& a.2) (w : Word) :
    ¬(w &&& a.2 = a.1 ∧ w &&& b.2 = b.1) := by
  rintro ⟨ha, hb⟩
  apply h
  rw [← ha, ← hb, BitVec.and_assoc, BitVec.and_assoc, BitVec.and_comm a.2]

/-- Settles O3: a row selects its command's word, or words; two rows differ in `OP`; a word that decodes to a command
matches that command's row. -/
theorem matchAndMaskSelectTheCommand : Obligations.MatchAndMaskSelectTheCommand := by
  have hall : ∀ w : Word, w &&& 0xFFFF#16 = w := fun w => BitVec.and_allOnes
  refine ⟨fun w => ?_, ?_, fun w hno => ?_⟩
  · simp only [decode_queue_eq_command_iff, hall]
    exact ⟨.rfl, .rfl, .rfl, eq_commandWord_iff w 4, eq_commandWord_iff w 5, eq_commandWord_iff w 6,
      eq_commandWord_iff w 7⟩
  · exact List.Pairwise.imp rows_disjoint (by decide)
  · cases hd : decode .queue w with
    | illegal why => exact ⟨why, rfl⟩
    | command i =>
      obtain rfl := decode_queue_eq_command_iff.1 hd
      exact absurd (encode_and_mask i) (hno (rowOf i) (by cases i <;> simp [rowOf]))

/-- Exactly the words that R78 lists are illegal, said by field. -/
theorem decode_illegal_iff (mode : EventMode) (w : Word) :
    (∃ why, decode mode w = .illegal why) ↔
      (opField w = 0#4 ∨ 8 ≤ (opField w).toNat ∨ rsvField w ≠ 0#4 ∨
       ((opField w = 1#4 ∨ opField w = 2#4 ∨ opField w = 3#4) ∧ idxField w ≠ 0#8) ∨
       (opField w = 3#4 ∧ mode ≠ .queue)) := by
  by_cases hrsv : rsvField w = 0#4
  · have hdec := decode_commandWord mode (opField w) (idxField w)
    rw [commandWord_of_fields w hrsv] at hdec
    rw [hdec]
    generalize opField w = op, idxField w = idx
    have hop : ∀ k, op.toNat = k → op = BitVec.ofNat 4 k := by rintro _ rfl; simp
    split
    case h_8 h1 h2 h3 h4 h5 h6 h7 =>
      refine ⟨fun _ => ?_, fun _ => ⟨_, rfl⟩⟩
      rcases Nat.lt_or_ge op.toNat 8 with h | h
      · have h0 : op.toNat = 0 := by grind
        exact .inl (hop 0 h0)
      · exact .inr (.inl h)
    all_goals
      rename_i hk
      obtain rfl := hop _ hk
    case h_1 | h_2 => by_cases hidx : idx = 0#8 <;> simp [hidx, hrsv]
    case h_3 => by_cases hm : mode = .queue <;> by_cases hidx : idx = 0#8 <;> simp [hm, hidx, hrsv]
    all_goals simp [hrsv]
  · exact ⟨fun _ => .inr (.inr (.inl hrsv)), fun _ => ⟨_, if_pos hrsv⟩⟩

namespace Machine

theorem executeWord_illegal {s : State} {w : Word} {why : Illegal} (h : decode s.cfg.eventMode w = .illegal why) :
    executeWord w s = .next (refuse .errIllegal s) := by
  simp [executeWord, h]

/-- Settles O4; the refusal's whole effect is the response word. -/
theorem reservedWordsAreRefused : Obligations.ReservedWordsAreRefused := by
  refine ⟨decode_illegal_iff, fun s w rest why hb hh hd => ?_, fun mode => ⟨?_, ?_⟩⟩
  · exact (step_command hh hb).trans (executeWord_illegal (s := s.accept rest) hd)
  · exact (decode_illegal_iff mode _).2 (.inl rfl)
  · exact (decode_illegal_iff mode _).2 (.inr (.inl (by decide)))

/-- A ready port's word that decodes to a command is `exec` of it on the accepting state (R60, R70). -/
theorem step_decoded {s : State} {w : Word} {rest : List HostInput} {i : Instr} (hh : s.host = .command w :: rest)
    (hb : s.busy = none) (hd : decode s.cfg.eventMode w = .command i) : step s = exec i (s.accept rest) :=
  (step_command hh hb).trans (executeWord_command (s := s.accept rest) hd)

/-- Settles O6: the accepting state is the one the statement writes out, and 16 table bits are the word. -/
theorem stepRunsTheDecodedCommand : Obligations.StepRunsTheDecodedCommand := by
  refine ⟨fun s w rest i hb hh hd => step_decoded hh hb hd, fun s w => ?_⟩
  have hw : tableWord 16 w.toNat = w := BitVec.eq_of_toNat_eq (by simp [tableWord]; omega)
  simp only [State.withFetchWord, State.presentWord, hw]

/-- The event word as a sum: the edge's bit, then the index (R80). -/
theorem Event.word_eq_add (ev : Event) :
    ev.word = (if ev.etype.bit then 0x100#9 else 0#9) + ev.btn.setWidth 9 := by
  have hbit : (BitVec.ofBool ev.etype.bit).setWidth 9 <<< 8 = if ev.etype.bit then 0x100#9 else 0#9 := by
    cases ev.etype <;> rfl
  rw [← hbit, BitVec.add_eq_or_of_and_eq_zero, Event.word]
  refine BitVec.eq_of_getLsbD_eq fun k hk => ?_
  rcases Nat.lt_or_ge k 8 with h | h
  · simp [h]
  · simp [BitVec.getLsbD_of_ge ev.btn k h]

/-- Settles O23: STEP's level follows its edge, and an edge is a change of the level. -/
theorem edgeTypeIsTheNewLevel : Obligations.EdgeTypeIsTheNewLevel := by
  refine ⟨fun i => ⟨?_, ?_⟩, fun T a b e hT _ he => ⟨?_, ?_⟩⟩
  · exact Event.word_eq_add ⟨.rising, i⟩
  · exact (Event.word_eq_add ⟨.falling, i⟩).trans (BitVec.zero_add _)
  all_goals have hT0 : T ≠ 0 := by rintro rfl; simp at hT
  · simp [Button.step_current hT0, he]
  · exact Button.step_edge_flips hT0 he

/-! ### What a command is answered -/

theorem Status.code_le (st : Status) : st.code.toNat ≤ 4 := by cases st <;> decide

/-- Every way a command can be answered (R75): with the event at slot `front`, or with a status and at most one bit of
`VAL`, which only a command with an index can set. -/
theorem exec_rsp_cases {i : Instr} {s t : State} (h : exec i s = .next t) (hb : t.busy = none) :
    (i = .pop ∧ s.cfg.eventMode = .queue ∧ s.q.count ≠ 0 ∧
      t.rsp = some (responseWord .ok true (s.q.buf.get (slot s.q.front)).etype.bit
        (s.q.buf.get (slot s.q.front)).btn)) ∨
    (¬(i = .pop ∧ s.cfg.eventMode = .queue ∧ s.q.count ≠ 0) ∧
      ∃ st b, t.rsp = some (responseWord st false false (boolVal b)) ∧ (i.index? = none → b = false)) := by
  by_cases hp : i = .pop ∧ s.cfg.eventMode = .queue ∧ s.q.count ≠ 0
  · obtain ⟨rfl, hm, hc⟩ := hp
    simp only [exec, execPop, hm, Queue.pop?, hc, if_true, if_false] at h
    cases h
    exact .inl ⟨rfl, hm, hc, rfl⟩
  · refine .inr ⟨hp, ?_⟩
    rcases exec_next_cases h with ⟨st, -, rfl⟩ | ⟨-, -, rfl⟩ | ⟨-, -, -, -, rfl⟩ | ⟨-, -, -, -, rfl⟩ |
      ⟨-, -, -, rfl⟩ | ⟨ev, q, hi, hm, hq, -⟩ | ⟨k, rfl, -, rfl⟩ | ⟨k, rfl, -, rfl⟩ | ⟨k, rfl, -, rfl⟩ |
      ⟨k, rfl, -, rfl⟩
    · exact ⟨st, false, rfl, fun _ => rfl⟩
    · cases hb
    · exact ⟨.ok, false, rfl, fun _ => rfl⟩
    · exact ⟨.ok, false, rfl, fun _ => rfl⟩
    · exact ⟨.ok, false, rfl, fun _ => rfl⟩
    · have hc : s.q.count ≠ 0 := fun hc => by simp [(Queue.pop?_eq_none _).2 hc] at hq
      exact absurd ⟨hi, hm, hc⟩ hp
    all_goals exact ⟨.ok, _, rfl, fun hk => nomatch hk⟩

/-- Bits 7:1 of a boolean result are 0 (R75). -/
theorem boolVal_high (b : Bool) : (boolVal b).extractLsb' 1 7 = 0#7 := by cases b <;> rfl

theorem responseWord_val_high (st : Status) (v e : Bool) (x : BitVec 8) :
    (responseWord st v e x).extractLsb' 1 7 = x.extractLsb' 1 7 := by
  conv_rhs => rw [← responseWord_val st v e x]
  ext k hk
  simp

/-- Settles O9, by the two kinds of answer. -/
theorem responseWordFields : Obligations.ResponseWordFields := by
  intro i s t h hb
  rcases exec_rsp_cases h hb with ⟨hi, hm, hc, hr⟩ | ⟨hp, st, b, hr, hidx⟩
  · refine ⟨_, hr, ?_⟩
    rw [responseWord_status, responseWord_zeros, responseWord_valid, responseWord_etype, responseWord_val]
    exact ⟨Status.code_le _, rfl, by simpa using ⟨hi, hm, hc⟩, fun _ => ⟨rfl, rfl⟩, nofun, nofun⟩
  · refine ⟨_, hr, ?_⟩
    rw [responseWord_status, responseWord_zeros, responseWord_valid, responseWord_etype, responseWord_val,
      responseWord_val_high, boolVal_high]
    refine ⟨Status.code_le st, rfl, by simpa using hp, nofun, fun _ => ⟨rfl, rfl⟩, fun _ hk => ?_⟩
    rw [hidx hk]
    rfl

/-! ### Commands at the ports -/

/-- `INIT` that is not refused (R151, R201). -/
theorem exec_init_eq {s : State} (hp : s.phase = .uninit) (hok : s.cfg.ok = true) :
    exec .init s = .next (if s.completes s.initPorts.length then
        (respond false false 0 ((forButtons initButton s.cfg.n s).setPhase .run)).spend s.initPorts.length
      else s.hang .init (s.allowed s.initPorts)) := by
  rw [← atPorts_init]
  simp [exec, execInit, hp, hok]

/-- `UPDATE` that is not refused and does not stop (R154, R201). -/
theorem exec_update_eq {s : State} (hp : s.phase = .run) (hok : s.cfg.thresholdsOk = true) :
    exec .update s = .next (if s.completes s.tickPorts.length then
        (respond false false 0 (forButtons tickButton s.cfg.n s)).spend s.tickPorts.length
      else s.hang .update (s.allowed s.tickPorts)) := by
  rw [← atPorts_update]
  simp [exec, execUpdate, hp, hok]

/-- A command that uses the ports and has its port actions completed is answered 0x0000 (R151, R154). -/
theorem exec_of_completes {i : Instr} {s : State} (h : s.UsesPorts i)
    (hc : s.completes (s.actionsOf i).length = true) :
    ∃ t, exec i s = .next t ∧ t.rsp = some 0x0000#16 ∧ t.busy = s.busy ∧ t.ports = s.ports ++ s.actionsOf i ∧
      t.host = s.host := by
  rcases h with ⟨rfl, hp, hok⟩ | ⟨rfl, hp, hok⟩
  · obtain ⟨-, -, -, -, hhost, -, -, -, hports, -⟩ := forButtons_init s s.cfg.n
    exact ⟨_, (exec_init_eq hp hok).trans (congrArg _ (if_pos hc)), rfl, (forButtons_init_env _ s).2, hports, hhost⟩
  · obtain ⟨-, -, -, hhost, -, -, -, -, hports, -⟩ := forButtons_tick s s.cfg.n
    exact ⟨_, (exec_update_eq hp hok).trans (congrArg _ (if_pos hc)), rfl, (forButtons_tick_env _ s).2, hports, hhost⟩

/-- A command that uses the ports and has one of its port actions left open waits (R85, R201). -/
theorem exec_of_not_completes {i : Instr} {s : State} (h : s.UsesPorts i)
    (hc : s.completes (s.actionsOf i).length = false) :
    exec i s = .next (s.hang i (s.allowed (s.actionsOf i))) := by
  have hc' : ¬s.completes (s.actionsOf i).length = true := by simp [hc]
  rcases h with ⟨rfl, hp, hok⟩ | ⟨rfl, hp, hok⟩
  · exact (exec_init_eq hp hok).trans (congrArg _ (if_neg hc'))
  · exact (exec_update_eq hp hok).trans (congrArg _ (if_neg hc'))

/-- A command that does not use the ports leaves them, the environment and the waiting command alone (R58). -/
theorem exec_not_usesPorts {i : Instr} {s t : State} (hno : ¬s.UsesPorts i) (h : exec i s = .next t) :
    t.busy = s.busy ∧ t.stallAfter = s.stallAfter ∧ t.ports = s.ports := by
  rcases exec_next_cases h with ⟨st, -, rfl⟩ | ⟨hp, -⟩ | ⟨hi, hp, hok, -⟩ | ⟨hi, hp, hok, -⟩ |
    ⟨-, -, -, rfl⟩ | ⟨ev, q, -, -, -, rfl⟩ | ⟨k, -, -, rfl⟩ | ⟨k, -, -, rfl⟩ | ⟨k, -, -, rfl⟩ | ⟨k, -, -, rfl⟩
  · exact ⟨rfl, rfl, rfl⟩
  · exact absurd hp hno
  · exact absurd (.inl ⟨hi, hp, hok⟩) hno
  · exact absurd (.inr ⟨hi, hp, hok⟩) hno
  all_goals exact ⟨rfl, rfl, rfl⟩

/-- Settles O53: the environment completes the command's port actions, or the first `k` of them. -/
theorem commandsWaitForTheEnvironment : Obligations.CommandsWaitForTheEnvironment := by
  refine ⟨fun i s hp => ⟨fun hc => ?_, fun k hk hlt => ?_⟩, fun i s t => exec_not_usesPorts⟩
  · obtain ⟨t, hx, hrsp, hbusy, hports, -⟩ := exec_of_completes hp hc
    exact ⟨t, hx, hrsp, hbusy, hports⟩
  · have hc : s.completes (s.actionsOf i).length = false := by simpa [State.completes, hk] using hlt
    rw [exec_of_not_completes hp hc, State.allowed, hk]
    rfl

/-- A command is answered, or it waits as one that uses the ports (R70, R201). -/
theorem exec_answered_or_waits {i : Instr} {s t : State} (h : exec i s = .next t) :
    (t.host = s.host ∧ t.busy = s.busy ∧ ∃ r, t.rsp = some r) ∨
    (s.UsesPorts i ∧ s.completes (s.actionsOf i).length = false ∧ t = s.hang i (s.allowed (s.actionsOf i))) := by
  rcases exec_next_cases h with ⟨st, -, rfl⟩ | hwaits | ⟨-, -, -, -, rfl⟩ | ⟨-, -, -, -, rfl⟩ |
    ⟨-, -, -, rfl⟩ | ⟨ev, q, -, -, -, rfl⟩ | ⟨k, -, -, rfl⟩ | ⟨k, -, -, rfl⟩ | ⟨k, -, -, rfl⟩ | ⟨k, -, -, rfl⟩
  · exact .inl ⟨rfl, rfl, _, rfl⟩
  · exact .inr hwaits
  · obtain ⟨-, -, -, -, hhost, -⟩ := forButtons_init s s.cfg.n
    exact .inl ⟨hhost, (forButtons_init_env _ s).2, _, rfl⟩
  · obtain ⟨-, -, -, hhost, -⟩ := forButtons_tick s s.cfg.n
    exact .inl ⟨hhost, (forButtons_tick_env _ s).2, _, rfl⟩
  all_goals exact .inl ⟨rfl, rfl, _, rfl⟩

/-- A word taken at a ready port is answered, or it is the word of a command that waits (R70, R201). -/
theorem step_command_answered_or_waits {s t : State} {w : Word} {rest : List HostInput} (hb : s.busy = none)
    (hh : s.host = .command w :: rest) (h : step s = .next t) :
    (t.host = rest ∧ t.busy = none ∧ ∃ r, t.rsp = some r) ∨
    ∃ i, decode s.cfg.eventMode w = .command i ∧ s.UsesPorts i ∧ s.completes (s.actionsOf i).length = false ∧
      t = (s.accept rest).hang i (s.allowed (s.actionsOf i)) := by
  rw [step_command hh hb] at h
  rcases executeWord_next_cases h with ⟨why, -, rfl⟩ | ⟨i, hd, hx⟩
  · exact .inl ⟨rfl, hb, _, rfl⟩
  · rcases exec_answered_or_waits hx with ⟨hhost, hbusy, hrsp⟩ | ⟨hp, hc, ht⟩
    · exact .inl ⟨hhost, hbusy.trans hb, hrsp⟩
    · exact .inr ⟨i, hd, hp, hc, ht⟩

/-- Settles O7: the word is answered, or its command hangs and has written nothing. -/
theorem eachCommandIsAnsweredOnce : Obligations.EachCommandIsAnsweredOnce := by
  intro s t w rest hb hh h
  rcases step_command_answered_or_waits hb hh h with ⟨hhost, hbusy, hrsp⟩ | ⟨i, hd, hp, hc, rfl⟩
  · exact ⟨hhost, .inl ⟨hbusy, hrsp⟩⟩
  · have hstall : s.stallAfter ≠ none := fun hn => by simp [State.completes_of_served hn] at hc
    exact ⟨rfl, .inr ⟨rfl, hstall, rfl, rfl, rfl, i, _, hp.imp (·.1) (·.1), hd, rfl⟩⟩

/-- A command that hung, once the environment goes on, is `exec` of it on the state it was accepted in, with as many
port actions granted as were completed and are granted now (R85, U11). -/
theorem step_hang_environment {s : State} (hb : s.busy = none) (i : Instr) (done : List PortAction) (e : Option Nat)
    (rest : List HostInput) :
    step ((s.accept (.environment e :: rest)).hang i done) =
      exec i { s.accept rest with stallAfter := e.map (· + done.length) } := by
  have hready : s.accept rest = { s.accept rest with busy := none } := by simp only [State.accept, hb]
  rw [step_environment rfl, hready]
  rfl

/-- Settles O55: serving the waiting command and taking the word anew are `exec` of one command on one state. -/
theorem waitingEndsAsIfServedAtOnce : Obligations.WaitingEndsAsIfServedAtOnce := by
  intro s t word w e rest hb hh h hw
  rcases step_command_answered_or_waits hb hh h with ⟨-, hbusy, -⟩ | ⟨i, hd, hp, -, rfl⟩
  · rw [hbusy] at hw; cases hw
  cases hw
  have hserved := step_hang_environment hb i (s.allowed (s.actionsOf i)) e rest
  refine ⟨hserved.trans ?_, fun _ he => ?_⟩
  · exact (step_decoded (s := { s with host := .command word :: rest, stallAfter := _ }) rfl hb hd).symm
  · subst he
    obtain ⟨u, hx, hrsp, hbusy, -, hhost⟩ :=
      exec_of_completes (s := { s.accept rest with stallAfter := none }) hp rfl
    exact ⟨u, hserved.trans hx, hrsp, hbusy.trans hb, hhost⟩

/-! ### The queue against the levels -/

/-- `t` has the configuration and the block state of `s` (R20, R21). -/
def State.SameBlock (s t : State) : Prop := t.cfg = s.cfg ∧ t.btn = s.btn ∧ t.q = s.q ∧ t.phase = s.phase

/-- Everything a step does to the block state: nothing, a reset, or what `exec` does of it. -/
theorem step_block_cases {s t : State} (h : step s = .next t) :
    s.SameBlock t ∨
    (t.cfg = s.cfg ∧ t.btn = List.replicate s.cfg.n Button.reset ∧ t.q = Queue.reset ∧ t.phase = .uninit) ∨
    ∃ i u, s.SameBlock u ∧ u.busy = none ∧ exec i u = .next t := by
  rcases step_next_cases h with ⟨-, rfl⟩ | ⟨x, rest, -, -, -, rfl⟩ | ⟨w, rest, -, hb, hw⟩ | ⟨rest, -, rfl⟩ |
    ⟨w, k, rest, -, -, rfl⟩ | ⟨e, rest, -, he⟩
  · exact .inl ⟨rfl, rfl, rfl, rfl⟩
  · exact .inl ⟨rfl, rfl, rfl, rfl⟩
  · rcases executeWord_next_cases hw with ⟨why, -, rfl⟩ | ⟨i, -, hx⟩
    · exact .inl ⟨rfl, rfl, rfl, rfl⟩
    · exact .inr (.inr ⟨i, s.accept rest, ⟨rfl, rfl, rfl, rfl⟩, hb, hx⟩)
  · exact .inr (.inl ⟨rfl, rfl, rfl, rfl⟩)
  · exact .inr (.inl ⟨rfl, rfl, rfl, rfl⟩)
  · rcases changeEnvironment_next_cases he with ⟨-, rfl⟩ | ⟨w, -, hx⟩
    · exact .inl ⟨rfl, rfl, rfl, rfl⟩
    · refine .inr (.inr ⟨w.command, _, ⟨?_, ?_, ?_, ?_⟩, ?_, hx⟩) <;> rfl

theorem State.SameBlock.button {s t : State} (h : s.SameBlock t) (j : Nat) : t.button j = s.button j := by
  obtain ⟨-, hbtn, -⟩ := h
  simp [State.button, hbtn]

/-- With no command waiting, the invariant is about configuration and block state only. -/
theorem State.SameBlock.inv {s t : State} (h : s.SameBlock t) (hb : t.busy = none) (hs : s.Inv) : t.Inv := by
  have hbutton := h.button
  obtain ⟨hcfg, hbtn, hq, hph⟩ := h
  obtain ⟨hwf, hun, hrun, hmode, -⟩ := hs
  simp only [State.Inv, State.WellFormed, hcfg, hbtn, hq, hph, hbutton, hb]
  exact ⟨hwf, hun, hrun, hmode, fun w hw => nomatch hw⟩

theorem State.SameBlock.queueAgrees {s t : State} (h : s.SameBlock t) (hs : s.QueueAgrees) : t.QueueAgrees := by
  have hbutton := h.button
  obtain ⟨hcfg, -, hq, -⟩ := h
  simp only [State.QueueAgrees, hcfg, hq, hbutton]
  exact hs

/-- An empty queue agrees with any levels. -/
theorem State.queueAgrees_of_empty {s : State} (h : s.q.content = []) : s.QueueAgrees := by
  intro i _
  rw [h]
  rfl

theorem alternatesBackFrom_of_prefix {es es' : List EdgeType} (h : es <+: es') {level : Bool}
    (hes : alternatesBackFrom level es' = true) : alternatesBackFrom level es = true := by
  obtain ⟨rest, rfl⟩ := h
  induction es generalizing level with
  | nil => rfl
  | cons e es ih =>
    simp only [List.cons_append, alternatesBackFrom, Bool.and_eq_true] at hes ⊢
    exact ⟨hes.1, ih hes.2⟩

theorem edgesOf_append (i : Nat) (evs evs' : List Event) :
    edgesOf i (evs ++ evs') = edgesOf i evs ++ edgesOf i evs' := by
  simp [edgesOf]

/-- The edges of a button among the last events are its last edges. -/
theorem edgesOf_suffix (i : Nat) {evs evs' : List Event} (h : evs <:+ evs') :
    edgesOf i evs <:+ edgesOf i evs' :=
  (h.filter _).map _

/-- Dropping the oldest events keeps a list in agreement. -/
theorem agrees_of_suffix {i : Nat} {level : Bool} {evs evs' : List Event} (h : evs <:+ evs')
    (hevs : alternatesBackFrom level (edgesOf i evs').reverse = true) :
    alternatesBackFrom level (edgesOf i evs).reverse = true :=
  alternatesBackFrom_of_prefix (List.reverse_prefix.2 (edgesOf_suffix i h)) hevs

/-- What the queue holds after pushes is an end part of what it held and the events pushed (R131). -/
theorem Queue.content_foldl_push (evs : List Event) {q : Queue} (h : q.WellFormed) :
    (evs.foldl (fun q ev => q.push ev) q).content <:+ q.content ++ evs := by
  induction evs generalizing q with
  | nil => simp
  | cons ev evs ih =>
    have hpush : (q.push ev).content <:+ q.content ++ [ev] := by
      rw [Queue.content_push ev q h]
      exact List.drop_suffix _ _
    calc
      _ <:+ (q.push ev).content ++ evs := ih (Queue.push_wellFormed ev q h)
      _ <:+ (q.content ++ [ev]) ++ evs := List.suffix_append_self_iff.2 hpush
      _ = q.content ++ ev :: evs := List.append_cons .. |>.symm

theorem edgesOf_eventOf {i j : Nat} (hi : i < 256) (hj : j < 256) (e : Option EdgeType) :
    edgesOf i (e.map (eventOf j)).toList = if i = j then e.toList else [] := by
  have hi' : i % 2 ^ IDXW = i := Nat.mod_eq_of_lt hi
  have hj' : j % 2 ^ IDXW = j := Nat.mod_eq_of_lt hj
  have hindex : BitVec.ofNat IDXW j = BitVec.ofNat IDXW i ↔ i = j := by
    rw [← BitVec.toNat_inj, BitVec.toNat_ofNat, BitVec.toNat_ofNat, hi', hj', eq_comm]
  cases e with
  | none => simp [edgesOf]
  | some e => by_cases h : i = j <;> simp [edgesOf, eventOf, hindex, h]

/-- A tick gives a button at most one event, that of its edge (R136, R154). -/
theorem edgesOf_tickEvents {s : State} (hcfg : s.cfg.WellFormed) {i : Nat} (hi : i < s.cfg.n) :
    edgesOf i s.tickEvents = (s.tickOf i).2.toList := by
  have hmax : s.cfg.n ≤ 256 := hcfg
  have hfirst : ∀ n ≤ s.cfg.n, edgesOf i ((List.range n).filterMap fun j => (s.tickOf j).2.map (eventOf j)) =
      if i < n then (s.tickOf i).2.toList else [] := by
    intro n hn
    induction n with
    | zero => rfl
    | succ n ih =>
      have hlast : edgesOf i ([n].filterMap fun j => (s.tickOf j).2.map (eventOf j)) =
          if i = n then (s.tickOf n).2.toList else [] := by
        rw [← edgesOf_eventOf (by omega) (by omega)]
        cases he : (s.tickOf n).2 <;> simp [he]
      rw [List.range_succ, List.filterMap_append, edgesOf_append, ih (by omega), hlast]
      rcases Nat.lt_trichotomy i n with h | rfl | h
      · simp [h, Nat.ne_of_lt h, Nat.lt_succ_of_lt h]
      · simp
      · simp [Nat.lt_asymm h, Nat.ne_of_gt h, Nat.not_lt.2 (Nat.succ_le_of_lt h)]
  rw [State.tickEvents, hfirst _ (Nat.le_refl _), if_pos hi]

/-- Pushed after events in agreement with the level, STEP's edge leaves events in agreement with the new level. -/
theorem Button.step_agrees {T : Count} (hT : T ≠ 0) (a : Bool) {b : Button} {es : List EdgeType}
    (h : alternatesBackFrom b.current es.reverse = true) :
    alternatesBackFrom (Button.step T a b).1.current (es ++ (Button.step T a b).2.toList).reverse = true := by
  rw [Button.step_current hT]
  cases he : (Button.step T a b).2 with
  | none => simpa using h
  | some e =>
    have hflip := Button.step_edge_flips hT he
    simpa [alternatesBackFrom, hflip] using h

/-- A scan of UPDATE keeps the agreement: each button's edge is pushed, oldest events drop out (R131, R154). -/
theorem forButtons_tick_queueAgrees {s : State} (hinv : s.Inv) (hT : ∀ i < s.cfg.n, s.cfg.threshold i ≠ 0)
    (hs : s.QueueAgrees) : (forButtons tickButton s.cfg.n s).QueueAgrees := by
  obtain ⟨⟨hcfg, hlen, hqwf⟩, -, -, hmode, -⟩ := hinv
  obtain ⟨htcfg, -, -, -, -, -, -, hq, -, -, -, hbutton⟩ := forButtons_tick s s.cfg.n
  by_cases hm : s.cfg.eventMode = .queue
  · intro i hi
    rw [htcfg] at hi
    rw [if_pos hm] at hq
    rw [hbutton i hi (hlen ▸ hi), hq]
    refine agrees_of_suffix (Queue.content_foldl_push s.tickEvents hqwf) ?_
    rw [edgesOf_append, edgesOf_tickEvents hcfg hi]
    exact Button.step_agrees (hT i hi) _ (hs i hi)
  · rw [if_neg hm] at hq
    exact State.queueAgrees_of_empty (hq ▸ (Queue.content_eq_nil _).2 (hmode hm))

/-- `UPDATE` keeps the agreement, refused, waiting or done. -/
theorem exec_update_queueAgrees {s t : State} (hinv : s.Inv) (hs : s.QueueAgrees) (h : exec .update s = .next t) :
    t.QueueAgrees := by
  cases hp : s.phase with
  | uninit =>
    simp only [exec, execUpdate, hp, if_true] at h
    cases h
    exact hs
  | run =>
    have ⟨_, _, hrun, _⟩ := hinv
    obtain ⟨-, hT⟩ := (Config.ok_iff _).1 (hrun hp).1
    rw [exec_update_eq hp ((Config.thresholdsOk_iff _).2 hT)] at h
    split at h <;> cases h
    · exact forButtons_tick_queueAgrees hinv hT hs
    · exact hs

/-- Every command but `UPDATE` leaves the events held or takes the oldest (R32, R132). -/
theorem exec_content_suffix {i : Instr} {s t : State} (hq : s.q.WellFormed) (h : exec i s = .next t)
    (hi : i ≠ .update) : t.q.content <:+ s.q.content := by
  rcases exec_q_cases h with e | e | ⟨-, ev, hpop⟩
  · rw [e]
  · exact absurd e hi
  · rw [(Queue.content_pop _ _ ev hq hpop).1]
    exact List.suffix_cons ev _

/-- Every command keeps the agreement: `INIT` that writes levels meets an empty queue, `UPDATE` pushes what it flips, and
the others write no level and no event. -/
theorem exec_queueAgrees {i : Instr} {s t : State} (hinv : s.Inv) (hs : s.QueueAgrees) (h : exec i s = .next t) :
    t.QueueAgrees := by
  by_cases hu : i = .update
  · subst hu; exact exec_update_queueAgrees hinv hs h
  obtain ⟨⟨-, -, hqwf⟩, huninit, -⟩ := hinv
  have hsuffix := exec_content_suffix hqwf h hu
  by_cases hi : i = .init
  · subst hi
    cases hp : s.phase with
    | uninit =>
      have hnil : s.q.content = [] := (Queue.content_eq_nil _).2 (huninit hp).2
      exact State.queueAgrees_of_empty (List.suffix_nil.1 (hnil ▸ hsuffix))
    | run =>
      simp only [exec, execInit, hp, if_true] at h
      cases h
      exact hs
  · intro j hj
    obtain ⟨hwrites, -⟩ := fieldsAreWrittenByTheirCommands i s t h
    have hlevel : (t.button j).current = (s.button j).current := by
      by_contra hne
      exact (hwrites j (.inr hne)).elim hi hu
    rw [hlevel]
    exact agrees_of_suffix hsuffix (hs j (exec_cfg h ▸ hj))

/-- Settles O51: the block state after a step is kept, reset, or what a command makes of it. -/
theorem queueStaysInAgreementWithLevels : Obligations.QueueStaysInAgreementWithLevels := by
  refine ⟨fun c => State.queueAgrees_of_empty Queue.reset_content, fun s t hinv hs h => ?_⟩
  rcases step_block_cases h with hsame | ⟨-, -, hq, -⟩ | ⟨i, u, hsame, hb, hx⟩
  · exact hsame.queueAgrees hs
  · exact State.queueAgrees_of_empty (hq ▸ Queue.reset_content)
  · exact exec_queueAgrees (hsame.inv hb hinv) (hsame.queueAgrees hs) hx

end Machine

end Sys2Proof
end

section
/-! SUPPORT. STEP along streams of samples, what the integrator's commands answer and leave, `UPDATE` words in a row, and
the statements of 40_integrator.md that follow from it. -/

namespace Sys2Proof.Machine

/-! ### The counter and its rails -/

/-- The thresholds that a statement about STEP admits are those that are not 0 (R110). -/
theorem one_le_threshold_iff {T : Count} : 1 ≤ T.toNat ↔ T ≠ 0 := by
  rw [Nat.one_le_iff_ne_zero, Ne, Ne, ← BitVec.toNat_inj]
  rfl

/-- A number below a threshold is a counter. -/
theorem toNat_ofNat_of_lt_threshold {T : Count} {m : Nat} (h : m < T.toNat) : (BitVec.ofNat CW m).toNat = m := by
  rw [BitVec.toNat_ofNat, Nat.mod_eq_of_lt (h.trans T.isLt)]

theorem countUp_of_lt {T c : Count} (h : c.toNat < T.toNat) : countUp T c = c + 1 :=
  if_pos h

@[simp] theorem countUp_self (T : Count) : countUp T T = T := by
  simp [countUp]

/-- An up-sample reaches the threshold from one below it and from the threshold itself (R108). -/
theorem countUp_eq_iff {T c : Count} (h : c ≤ T) : countUp T c = T ↔ T.toNat ≤ c.toNat + 1 := by
  rw [← BitVec.toNat_inj, countUp_toNat h]
  omega

theorem countDown_of_pos {c : Count} (h : 0 < c.toNat) : countDown c = c - 1 :=
  if_pos h

/-- A down-sample reaches 0 from 1 and from 0 itself (R108). -/
theorem countDown_eq_zero_iff {c : Count} : countDown c = 0 ↔ c.toNat ≤ 1 := by
  rw [← BitVec.toNat_inj, countDown_toNat]
  exact Nat.sub_eq_zero_iff_le

/-- Exchanging high and low exchanges the two directions of the counter (R103). -/
theorem countDown_mirror {T c : Count} (h : c ≤ T) : countDown (T - c) = T - countUp T c := by
  refine BitVec.eq_of_toNat_eq ?_
  rw [countDown_toNat, BitVec.toNat_sub_of_le h, BitVec.toNat_sub_of_le (countUp_le h), countUp_toNat h]
  omega

theorem mirror_counter_le {T c : Count} (h : c ≤ T) : T - c ≤ T := by
  show (T - c).toNat ≤ T.toNat
  rw [BitVec.toNat_sub_of_le h]
  exact Nat.sub_le _ _

/-- `countDown_mirror` from the other side. -/
theorem countUp_mirror {T c : Count} (h : c ≤ T) : countUp T (T - c) = T - countDown c := by
  rw [eq_sub_iff_add_eq, ← eq_sub_iff_add_eq', ← countDown_mirror (mirror_counter_le h), sub_sub_cancel]

/-! ### STEP: its four cases by sample and level -/

section
variable {T : Count} (hT : T ≠ 0) {b : Button}
include hT

/-- An up-sample that reaches the threshold raises a low level (R102). -/
theorem Button.step_rise (hc : countUp T b.counter = T) (hlow : b.current = false) :
    Button.step T true b = ({ b with counter := T, current := true, rising := true }, some .rising) := by
  rw [Button.step, if_neg hT, if_pos rfl, if_pos ⟨hc, hlow⟩, hc]

/-- An up-sample that meets a high level, or does not reach the threshold, only counts (R102). -/
theorem Button.step_up (h : countUp T b.counter = T → b.current = true) :
    Button.step T true b = ({ b with counter := countUp T b.counter }, none) := by
  have hno : ¬(countUp T b.counter = T ∧ b.current = false) := fun ⟨hc, hlow⟩ => by simp [h hc] at hlow
  rw [Button.step, if_neg hT, if_pos rfl, if_neg hno]

/-- A down-sample that reaches 0 lowers a high level (R102). -/
theorem Button.step_fall (hc : countDown b.counter = 0) (hhigh : b.current = true) :
    Button.step T false b = ({ b with counter := 0, current := false, falling := true }, some .falling) := by
  rw [Button.step, if_neg hT, if_neg Bool.false_ne_true, if_pos ⟨hc, hhigh⟩, hc]

/-- A down-sample that meets a low level, or does not reach 0, only counts (R102). -/
theorem Button.step_down (h : countDown b.counter = 0 → b.current = false) :
    Button.step T false b = ({ b with counter := countDown b.counter }, none) := by
  have hno : ¬(countDown b.counter = 0 ∧ b.current = true) := fun ⟨hc, hhigh⟩ => by simp [h hc] at hhigh
  rw [Button.step, if_neg hT, if_neg Bool.false_ne_true, if_neg hno]

/-- The counter stays in range (R22, R108). -/
theorem Button.step_counter_le (a : Bool) (h : b.counter ≤ T) : (Button.step T a b).1.counter ≤ T := by
  rw [Button.step_counter hT]
  cases a
  · exact countDown_le h
  · exact countUp_le h

/-- STEP with high and low exchanged is STEP (R103). -/
theorem Button.step_mirror (a : Bool) (h : b.counter ≤ T) :
    Button.step T (!a) (b.mirror T) =
      ((Button.step T a b).1.mirror T, (Button.step T a b).2.map EdgeType.mirror) := by
  have hup : countUp T (b.mirror T).counter = T - countDown b.counter := countUp_mirror h
  have hdown : countDown (b.mirror T).counter = T - countUp T b.counter := countDown_mirror h
  rcases Button.step_cases hT a b with ⟨rfl, hc, hlow, e⟩ | ⟨rfl, hno, e⟩ | ⟨rfl, hc, hhigh, e⟩ | ⟨rfl, hno, e⟩
  · rw [e, Bool.not_true, Button.step_fall hT (by rw [hdown, hc, sub_self]) (by simp [Button.mirror, hlow])]
    simp [Button.mirror, EdgeType.mirror]
  · rw [e, Bool.not_true, Button.step_down hT, hdown]
    · rfl
    · rw [hdown, sub_eq_zero]
      exact fun hc => by simpa [Button.mirror, hc.symm] using hno
  · rw [e, Bool.not_false, Button.step_rise hT (by rw [hup, hc, sub_zero]) (by simp [Button.mirror, hhigh])]
    simp [Button.mirror, EdgeType.mirror]
  · rw [e, Bool.not_false, Button.step_up hT, hup]
    · rfl
    · rw [hup, sub_eq_self]
      exact fun hc => by simpa [Button.mirror, hc] using hno

end

@[simp] theorem Button.mirror_mirror (T : Count) (b : Button) : (b.mirror T).mirror T = b := by
  simp [Button.mirror]

/-- Settles O15: the conditions are arithmetic, each row is one of STEP's four cases, the symmetry is `step_mirror`. -/
theorem stepFollowsItsTable : Obligations.StepFollowsItsTable := by
  intro T b h1 hle
  have hT := one_le_threshold_iff.1 h1
  have htop : b.counter = T ↔ b.counter.toNat = T.toNat := BitVec.toNat_inj.symm
  have hzero : b.counter.toNat = 0 → b.counter = 0 := fun h => BitVec.eq_of_toNat_eq h
  have hup := countUp_eq_iff hle
  have hdown := countDown_eq_zero_iff (c := b.counter)
  refine ⟨?_, ?_, ?_, ?_, fun h => ?_, fun h hlow => ?_, fun h hhigh => ?_, fun h hhigh => ?_, fun h hlow => ?_,
    fun h => ?_, fun h hhigh => ?_, fun h hlow => ?_, fun h hlow => ?_, fun h hhigh => ?_,
    fun a => Button.step_mirror hT a hle⟩
  · simp only [htop, List.exists_mem_cons_iff]
    cases b.current <;> simp <;> omega
  · simp only [htop, List.pairwise_cons, List.forall_mem_cons]
    cases b.current <;> simp <;> omega
  · simp only [List.exists_mem_cons_iff]
    cases b.current <;> simp <;> omega
  · simp only [List.pairwise_cons, List.forall_mem_cons]
    cases b.current <;> simp <;> omega
  · rw [Button.step_up hT fun e => absurd (hup.1 e) (by omega), countUp_of_lt (by omega)]
  · exact Button.step_rise hT (hup.2 h.ge) hlow
  · rw [Button.step_up hT fun _ => hhigh, hup.2 h.ge]
  · rw [Button.step_up hT fun _ => hhigh, h, countUp_self, ← h]
  · rw [Button.step_rise hT (by rw [h, countUp_self]) hlow, ← h]
  · rw [Button.step_down hT fun e => absurd (hdown.1 e) (by omega), countDown_of_pos (by omega)]
  · exact Button.step_fall hT (hdown.2 h.le) hhigh
  · rw [Button.step_down hT fun _ => hlow, hdown.2 h.le]
  · rw [Button.step_down hT fun _ => hlow, hdown.2 (by omega), ← hzero h]
  · rw [Button.step_fall hT (hdown.2 (by omega)) hhigh, ← hzero h]

/-- Settles O16, by the counter after each sample. -/
theorem counterSaturatesAndNeverWraps : Obligations.CounterSaturatesAndNeverWraps := by
  intro T a b h1 hle
  have hT := one_le_threshold_iff.1 h1
  refine ⟨?_, Button.step_counter_le hT a hle⟩
  rw [Button.step_counter hT]
  cases a
  · exact countDown_toNat _
  · exact countUp_toNat hle

/-- Settles O17: with threshold 1 every sample takes the counter to its own rail, so a level that differs flips. -/
theorem thresholdOneFollowsTheSample : Obligations.ThresholdOneFollowsTheSample := by
  refine ⟨fun a b hc => ?_, fun a => ?_⟩
  · have hT : (1 : Count) ≠ 0 := by decide
    have hup : countUp 1 b.counter = 1 := (countUp_eq_iff hc).2 (Nat.le_add_left _ _)
    have hdown : countDown b.counter = 0 := countDown_eq_zero_iff.2 hc
    rw [Button.step_counter hT, Button.step_current hT, Button.step_edge hT, hup, hdown]
    cases a <;> cases b.current <;> simp [EdgeType.bit]
  · cases a <;> exact ⟨rfl, by decide⟩

/-! ### STEP along a stream -/

theorem Button.steps_append (T : Count) (as as' : List Bool) (b : Button) :
    Button.steps T (as ++ as') b =
      ((Button.steps T as' (Button.steps T as b).1).1,
       (Button.steps T as b).2 ++ (Button.steps T as' (Button.steps T as b).1).2) := by
  induction as generalizing b with
  | nil => rfl
  | cons a as ih => simp [Button.steps, ih]

/-- A stream with high and low exchanged has the exchanged edges and leaves the exchanged button (R103). -/
theorem Button.steps_mirror {T : Count} (hT : T ≠ 0) (as : List Bool) {b : Button} (h : b.counter ≤ T) :
    Button.steps T (as.map (!·)) (b.mirror T) =
      ((Button.steps T as b).1.mirror T, (Button.steps T as b).2.map (Option.map EdgeType.mirror)) := by
  induction as generalizing b with
  | nil => rfl
  | cons a as ih => simp [Button.steps, Button.step_mirror hT a h, ih (Button.step_counter_le hT a h)]

/-- Up-samples that end below the threshold are counted, and nothing else happens (R108). -/
theorem Button.steps_up_below {T c : Count} {b : Button} {k : Nat} (hc : c.toNat = b.counter.toNat + k)
    (hlt : c.toNat < T.toNat) :
    Button.steps T (List.replicate k true) b = ({ b with counter := c }, List.replicate k none) := by
  have hT : T ≠ 0 := one_le_threshold_iff.1 (by omega)
  induction k generalizing b with
  | zero =>
    obtain rfl : c = b.counter := BitVec.eq_of_toNat_eq hc
    rfl
  | succ k ih =>
    have hle : b.counter.toNat ≤ T.toNat := by omega
    have hup : countUp T b.counter ≠ T := by rw [Ne, countUp_eq_iff hle]; omega
    have hcount : c.toNat = (countUp T b.counter).toNat + k := by rw [countUp_toNat hle]; omega
    have ih := ih (b := { b with counter := countUp T b.counter }) hcount
    simp [Button.steps, List.replicate_succ, Button.step_up hT fun e => absurd e hup, ih]

/-- From a low level, the up-samples that are left to the threshold give one edge, on the last of them (R111). -/
theorem Button.steps_rise {T : Count} {b : Button} {k : Nat} (h : b.counter.toNat + k + 1 = T.toNat)
    (hlow : b.current = false) :
    Button.steps T (List.replicate (k + 1) true) b =
      ({ b with counter := T, current := true, rising := true }, List.replicate k none ++ [some .rising]) := by
  have hT : T ≠ 0 := one_le_threshold_iff.1 (by omega)
  have hbelow : (countDown T).toNat = b.counter.toNat + k := by rw [countDown_toNat]; omega
  have hlast : countUp T (countDown T) = T :=
    (countUp_eq_iff (countDown_le (BitVec.le_refl T))).2 (by omega)
  rw [List.replicate_succ', Button.steps_append, Button.steps_up_below hbelow (by omega)]
  simp [Button.steps, Button.step_rise hT (b := { b with counter := countDown T }) hlast hlow]

/-- From a high level, the down-samples that are left to 0 give one edge, on the last of them (R111): `steps_rise` with
high and low exchanged. -/
theorem Button.steps_fall {T : Count} {b : Button} {k : Nat} (h : b.counter.toNat = k + 1) (hle : b.counter ≤ T)
    (hhigh : b.current = true) :
    Button.steps T (List.replicate (k + 1) false) b =
      ({ b with counter := 0, current := false, falling := true }, List.replicate k none ++ [some .falling]) := by
  have hle' : b.counter.toNat ≤ T.toNat := hle
  have hT : T ≠ 0 := one_le_threshold_iff.1 (by omega)
  have hcount : (b.mirror T).counter.toNat + k + 1 = T.toNat := by
    rw [Button.mirror, BitVec.toNat_sub_of_le hle]; omega
  have hmirror := Button.steps_mirror hT (List.replicate (k + 1) true) (b := b.mirror T) (mirror_counter_le hle)
  rw [Button.steps_rise hcount (by simp [Button.mirror, hhigh]), Button.mirror_mirror] at hmirror
  simpa [Button.mirror, EdgeType.mirror] using hmirror

/-- Settles O18; the leaky example is evaluated. -/
theorem flipTakesTheRemainingSamples : Obligations.FlipTakesTheRemainingSamples := by
  refine ⟨fun T b hlt hlow => ?_, fun T b hpos hle hhigh => ?_, fun ⟨c, v, r, f⟩ hc hv => ?_⟩
  · obtain ⟨k, hk⟩ := Nat.exists_eq_add_one_of_ne_zero (Nat.sub_ne_zero_of_lt hlt)
    rw [hk]
    exact Button.steps_rise (by omega) hlow
  · obtain ⟨k, hk⟩ := Nat.exists_eq_add_one_of_ne_zero hpos.ne'
    rw [hk]
    exact Button.steps_fall hk hle hhigh
  · subst hc hv
    revert r f
    decide

/-- Settles O19: the up-samples are counted, the down-sample meets a low level; above the rail the flip of O18 takes
fewer than `T` samples. -/
theorem noiseIsRejectedFromTheLowRail : Obligations.NoiseIsRejectedFromTheLowRail := by
  refine ⟨fun T b k hc hlow hk => ?_, fun T b hpos hlt hlow => ⟨Nat.sub_lt (by omega) hpos, ?_⟩⟩
  · have hT : T ≠ 0 := one_le_threshold_iff.1 (by omega)
    have hcount : ∀ m ≤ k, (BitVec.ofNat CW m).toNat = m := fun m hm => toNat_ofNat_of_lt_threshold (hm.trans_lt hk)
    have hdown : countDown (BitVec.ofNat CW k) = BitVec.ofNat CW (k - 1) := BitVec.eq_of_toNat_eq (by
      rw [countDown_toNat, hcount k le_rfl, hcount (k - 1) (Nat.sub_le ..)])
    rw [Button.steps_append,
      Button.steps_up_below (c := BitVec.ofNat CW k) (by simp [hc, hcount]) (by simp [hcount, hk])]
    simp [Button.steps, Button.step_down hT (b := { b with counter := BitVec.ofNat CW k }) fun _ => hlow, hdown,
      List.replicate_succ']
  · rw [flipTakesTheRemainingSamples.1 T b hlt hlow]

/-- Along any stream the edges alternate, the first one against the level at the start (R113). -/
theorem Button.steps_alternate {T : Count} (hT : T ≠ 0) (as : List Bool) (b : Button) :
    alternatesFrom b.current ((Button.steps T as b).2.filterMap id) = true := by
  induction as generalizing b with
  | nil => rfl
  | cons a as ih =>
    have ih := ih (Button.step T a b).1
    rw [Button.step_current hT] at ih
    cases he : (Button.step T a b).2 with
    | none => simpa [Button.steps, he] using ih
    | some e => simpa [Button.steps, he, alternatesFrom, Button.step_edge_flips hT he] using ih

/-- Settles O20; at the high rail an up-sample changes nothing. -/
theorem edgesAlternateAlongAnyStream : Obligations.EdgesAlternateAlongAnyStream := by
  intro T h1
  have hT := one_le_threshold_iff.1 h1
  refine ⟨fun as b _ => Button.steps_alternate hT as b, fun a => ?_, fun b k hc hhigh => ?_⟩
  · cases a <;> simp [Button.seed]
  · have hstep : Button.step T true b = (b, none) := by
      rw [Button.step_up hT fun _ => hhigh, hc, countUp_self, ← hc]
    induction k with
    | zero => rfl
    | succ k ih => simp [Button.steps, List.replicate_succ, hstep, ih]

/-- While the level is high, a FALLING to come costs as many down-samples as the counter is high (R114). -/
theorem Button.counter_le_count_false {T : Count} (hT : T ≠ 0) {as : List Bool} {b : Button} (hle : b.counter ≤ T)
    (hhigh : b.current = true) (hfall : some .falling ∈ (Button.steps T as b).2) :
    b.counter.toNat ≤ as.count false := by
  induction as generalizing b with
  | nil => cases hfall
  | cons a as ih =>
    have hle' : b.counter.toNat ≤ T.toNat := hle
    have ih := ih (Button.step_counter_le hT a hle)
    rcases Button.step_cases hT a b with ⟨-, -, hlow, -⟩ | ⟨rfl, -, e⟩ | ⟨rfl, hc, -, -⟩ | ⟨rfl, -, e⟩
    · simp [hhigh] at hlow
    · have hrest := ih (by rw [e]; exact hhigh) (by simpa [Button.steps, e] using hfall)
      rw [e, countUp_toNat hle] at hrest
      rw [List.count_cons_of_ne (by decide)]
      omega
    · rw [List.count_cons_self]
      exact (countDown_eq_zero_iff.1 hc).trans (Nat.le_add_left _ _)
    · have hrest := ih (by rw [e]; exact hhigh) (by simpa [Button.steps, e] using hfall)
      rw [e, countDown_toNat] at hrest
      rw [List.count_cons_self]
      omega

/-- Settles O21: the case of the counter at `T`. -/
theorem fallNeedsThresholdDownSamples : Obligations.FallNeedsThresholdDownSamples := by
  intro T as b h1 hc hhigh hfall
  rw [← hc]
  exact Button.counter_le_count_false (one_le_threshold_iff.1 h1) (BitVec.le_of_eq hc) hhigh hfall

/-! ### READ and the consumes -/

/-- The response to a boolean result (R75). -/
theorem respond_bool_rsp (b : Bool) (s : State) :
    (respond false false (boolVal b) s).rsp = some (if b then 0x0001#16 else 0x0000#16) := by
  cases b <;> rfl

/-- A command with an index of `N` or more is refused (R54, R175). -/
theorem exec_bad_index {c : Instr} {k : ButtonIndex} (hc : c.index? = some k) {s : State} (hk : s.cfg.n ≤ k.toNat) :
    exec c s = .next { s with rsp := some 0x3000#16 } := by
  have hno : s.hasButton k = false := by simpa [State.hasButton] using hk
  cases c
  case init | update | pop => cases hc
  all_goals
    cases hc
    simp only [exec, execRead, execConsumeRising, execConsumeFalling, execConsumeChanged, hno]
    rfl

/-- A consume of a button below `N`: the answer, the button it leaves, and everything it leaves alone (R105 to R107). -/
theorem exec_consume_frame {c : Instr} {k : ButtonIndex} (hc : c.Consumes k) {s : State} (hwf : s.WellFormed)
    (hk : k.toNat < s.cfg.n) :
    ∃ t, exec c s = .next t ∧
      t.rsp = some (if c.latch (s.button k.toNat) then 0x0001#16 else 0x0000#16) ∧
      t.button k.toNat = c.consumed (s.button k.toNat) ∧
      (∀ j, j ≠ k.toNat → t.button j = s.button j) ∧ t.btn.length = s.btn.length ∧
      { t with btn := s.btn, rsp := s.rsp } = s := by
  obtain ⟨-, hlen, -⟩ := hwf
  exact ⟨_, exec_consume hc hk, respond_bool_rsp _ _, s.button_setButton_self _ (hlen ▸ hk),
    fun j hj => s.button_setButton_ne _ hj.symm, List.length_set, rfl⟩

/-- Settles O24, by what `READ` answers. -/
theorem readAnswersTheLevel : Obligations.ReadAnswersTheLevel := by
  intro s i
  refine ⟨commandWord_eq_add 4 i, fun hi => ?_, exec_bad_index rfl⟩
  rw [exec_read, State.readWord, if_pos ((s.hasButton_eq_true i).2 hi)]
  cases (s.button i.toNat).current <;> rfl

/-- Settles O25: the consume of the rising latch. -/
theorem consumeRisingAnswersAndClears : Obligations.ConsumeRisingAnswersAndClears := fun _ i hwf =>
  ⟨commandWord_eq_add 5 i, exec_consume_frame (.inl rfl) hwf, exec_bad_index rfl⟩

/-- Settles O26: the consume of the falling latch. -/
theorem consumeFallingAnswersAndClears : Obligations.ConsumeFallingAnswersAndClears := fun _ i hwf =>
  ⟨commandWord_eq_add 6 i, exec_consume_frame (.inr (.inl rfl)) hwf, exec_bad_index rfl⟩

/-- Settles O27: the consume of both latches, whose answer is whether either latch was set. -/
theorem consumeChangedAnswersAndClears : Obligations.ConsumeChangedAnswersAndClears := by
  intro s i hwf
  refine ⟨commandWord_eq_add 7 i, fun hi => ?_, exec_bad_index rfl⟩
  have h := exec_consume_frame (c := .consumeChanged i) (.inr (.inr rfl)) hwf hi
  simp only [Instr.latch, Button.changed, Bool.or_eq_true] at h
  exact h

/-! ### UPDATE -/

/-- Settles O39: the threshold 0 fails the check that `UPDATE` makes first. -/
theorem updateWithZeroThresholdStops : Obligations.UpdateWithZeroThresholdStops := by
  intro s i hp hi hzero
  have hno : ¬s.cfg.thresholdsOk = true := fun hok => (Config.thresholdsOk_iff _).1 hok i hi hzero
  simp [exec, execUpdate, hp, hno]

/-- In phase RUN with good thresholds, a button record for each button, nothing waiting and an environment that completes
everything (R195, R201): each `UPDATE` word is answered. -/
structure State.Ticks (s : State) : Prop where
  phase : s.phase = .run
  thresholds : s.cfg.thresholdsOk = true
  table : s.btn.length = s.cfg.n
  ready : s.busy = none
  served : s.stallAfter = none

theorem State.Inv.ticks {s : State} (hinv : s.Inv) (hp : s.phase = .run) (hb : s.busy = none)
    (hs : s.stallAfter = none) : s.Ticks := by
  obtain ⟨⟨-, hlen, -⟩, -, hrun, -⟩ := hinv
  obtain ⟨-, hT⟩ := (Config.ok_iff _).1 (hrun hp).1
  exact ⟨hp, (Config.thresholdsOk_iff _).2 hT, hlen, hb, hs⟩

/-- With nothing to wait for, `UPDATE` is its scan (R154, R201). -/
theorem exec_update_served {s : State} (hs : s.Ticks) :
    exec .update s = .next (respond false false 0 (forButtons tickButton s.cfg.n s)) := by
  obtain ⟨hp, hT, -, -, hserved⟩ := hs
  obtain ⟨hstall, -⟩ := forButtons_tick_env s.cfg.n s
  rw [exec_update_eq hp hT, if_pos (State.completes_of_served hserved _)]
  exact congrArg _ (State.spend_served (s := respond false false 0 _) (hstall.trans hserved) _)

/-- One `UPDATE` word: every button takes its sample, and the next tick's answers are the next `N` (R154, R58). -/
theorem step_update {s : State} (hs : s.Ticks) {rest : List HostInput} (hh : s.host = .command 0x2000#16 :: rest) :
    ∃ t, step s = .next t ∧ t.Ticks ∧ t.host = rest ∧ t.cfg = s.cfg ∧ (∀ k, t.answer k = s.answer (s.cfg.n + k)) ∧
      ∀ j < s.cfg.n, t.button j = (s.tickOf j).1 := by
  have ⟨hp, hT, hlen, hb, hserved⟩ := hs
  obtain ⟨tcfg, tphase, -, thost, -, -, tlen, -, -, tans, -, tbutton⟩ := forButtons_tick (s.accept rest) s.cfg.n
  obtain ⟨tstall, tbusy⟩ := forButtons_tick_env s.cfg.n (s.accept rest)
  have hd : decode s.cfg.eventMode 0x2000#16 = .command .update := decodeOfEncodeIsTheCommand _ .update nofun
  have hx := exec_update_served (s := s.accept rest) ⟨hp, hT, hlen, hb, hserved⟩
  exact ⟨_, (step_decoded hh hb hd).trans hx,
    ⟨tphase.trans hp, (congrArg Config.thresholdsOk tcfg).trans hT,
      tlen.trans (hlen.trans (congrArg Config.n tcfg).symm), tbusy.trans hb, tstall.trans hserved⟩,
    thost, tcfg, tans, fun j hj => tbutton j hj (hlen ▸ hj)⟩

/-- `m` `UPDATE` words: button `j` goes along the stream of its own samples, every `N`-th answer (R154, R61). -/
theorem runSteps_update {s : State} (hs : s.Ticks) {m j : Nat} (hj : j < s.cfg.n) {rest : List HostInput}
    (hh : s.host = List.replicate m (.command 0x2000#16) ++ rest) :
    ∃ t, runSteps m s = some t ∧ t.host = rest ∧
      t.button j = (Button.steps (s.cfg.threshold j) ((List.range m).map fun k => s.answer (k * s.cfg.n + j))
        (s.button j)).1 := by
  induction m generalizing s with
  | zero => exact ⟨s, rfl, hh, rfl⟩
  | succ m ih =>
    obtain ⟨u, hstep, hu, uhost, ucfg, uans, ubutton⟩ := step_update hs hh
    obtain ⟨t, hrun, thost, tbutton⟩ := ih hu (ucfg ▸ hj) uhost
    refine ⟨t, by rw [runSteps, hstep]; exact hrun, thost, ?_⟩
    rw [tbutton, ucfg, ubutton j hj, List.range_succ_eq_map, List.map_cons, List.map_map, Button.steps]
    have hsample : ∀ k, u.answer (k * s.cfg.n + j) = s.answer ((k + 1) * s.cfg.n + j) := fun k => by
      rw [uans, Nat.succ_mul]
      congr 1
      omega
    simp only [hsample, State.tickOf, Function.comp_def, Nat.zero_mul, Nat.zero_add]

/-- Settles O52: the samples of the button are the stream of `T` ones, and of `m` ones below the threshold. -/
theorem thresholdUpdatesRaiseAButton : Obligations.ThresholdUpdatesRaiseAButton := by
  intro s j rest hinv hp hb hserved hj hc hh hones
  have hs := hinv.ticks hp hb hserved
  have hlow : (s.button j).current = false := by
    obtain ⟨-, -, hrun, -⟩ := hinv
    obtain ⟨-, -, hrail⟩ := (hrun hp).2 j hj
    exact hrail hc
  have hsamples : ∀ m ≤ (s.cfg.threshold j).toNat,
      ((List.range m).map fun k => s.answer (k * s.cfg.n + j)) = List.replicate m true := by
    intro m hm
    refine List.eq_replicate_iff.2 ⟨by simp, ?_⟩
    simpa using fun k hk => hones k (hk.trans_le hm)
  have hcount : (s.button j).counter.toNat = 0 := congrArg BitVec.toNat hc
  refine ⟨?_, fun m hm => ?_⟩
  · obtain ⟨t, hrun, thost, tbutton⟩ := runSteps_update hs hj hh
    have hpos : 1 ≤ (s.cfg.threshold j).toNat :=
      one_le_threshold_iff.2 ((Config.thresholdsOk_iff _).1 hs.thresholds j hj)
    have hrise := flipTakesTheRemainingSamples.1 (s.cfg.threshold j) (s.button j) (by omega) hlow
    rw [hcount, Nat.sub_zero] at hrise
    exact ⟨t, hrun, thost, by rw [tbutton, hsamples _ le_rfl, hrise]⟩
  · have hsplit : s.host = List.replicate m (.command 0x2000#16) ++
        (List.replicate ((s.cfg.threshold j).toNat - m) (.command 0x2000#16) ++ rest) := by
      rw [hh, ← List.append_assoc, List.replicate_append_replicate, Nat.add_sub_cancel' hm.le]
    obtain ⟨u, hrun, -, ubutton⟩ := runSteps_update hs hj hsplit
    have hm' : (BitVec.ofNat CW m).toNat = m := toNat_ofNat_of_lt_threshold hm
    rw [hsamples m hm.le, Button.steps_up_below (c := BitVec.ofNat CW m) (by omega) (by omega)] at ubutton
    exact ⟨u, hrun, by rw [ubutton, hm'], by rw [ubutton, hlow], by rw [ubutton]⟩

end Sys2Proof.Machine
end

section
/-! SUPPORT. A run of pushes on the queue's content, `POP` and its response word, the events of a tick, and the statements
of 41_event_queue.md that follow from them. -/

namespace Sys2Proof.Machine

/-! ### PUSH -/

/-- The count after PUSH on any ring, well formed or not (R131). -/
theorem Queue.push_count_eq (ev : Event) (q : Queue) :
    (q.push ev).count = if q.full then q.count else q.count + 1 := rfl

/-- Settles O30: the slots after PUSH, and the two cases of a full and of a free ring. -/
theorem pushWritesTheBackSlot : Obligations.PushWritesTheBackSlot := by
  intro ev q
  have hfull : q.full = true ↔ q.count = 8 := beq_iff_eq
  refine ⟨?_, fun k hk => ?_, rfl, fun h8 => ?_, fun h8 => ?_⟩
  · rw [Queue.push_buf_get, if_pos rfl]
  · rw [Queue.push_buf_get, if_neg hk]
  · have hf := hfull.2 h8
    exact ⟨by rw [Queue.push_front, if_pos hf], by rw [Queue.push_count_eq, if_pos hf, h8]⟩
  · have hf : ¬q.full = true := fun hf => h8 (hfull.1 hf)
    exact ⟨by rw [Queue.push_front, if_neg hf], by rw [Queue.push_count_eq, if_neg hf]⟩

/-- PUSH adds one event to the content, which never exceeds eight (R33, R138). -/
theorem Queue.content_length_push (ev : Event) {q : Queue} (h : q.WellFormed) :
    (q.push ev).content.length = min 8 (q.content.length + 1) := by
  have ⟨(hc : q.count.toNat ≤ 8), _⟩ := h
  simp only [Queue.content_length, Queue.push_count ev q h, Queue.full_eq_true]
  split <;> omega

theorem Queue.foldl_push_wellFormed (evs : List Event) {q : Queue} (h : q.WellFormed) :
    (evs.foldl (fun q ev => q.push ev) q).WellFormed :=
  List.foldlRecOn evs _ h fun q hq ev _ => Queue.push_wellFormed ev q hq

/-- How many events a run of pushes leaves (R135). -/
theorem Queue.content_length_foldl_push (evs : List Event) {q : Queue} (h : q.WellFormed) :
    (evs.foldl (fun q ev => q.push ev) q).content.length = min 8 (q.content.length + evs.length) := by
  induction evs generalizing q with
  | nil =>
    have ⟨hc, _⟩ := h
    simpa using hc
  | cons ev evs ih =>
    rw [List.foldl_cons, ih (Queue.push_wellFormed ev q h), Queue.content_length_push ev h, List.length_cons]
    omega

/-- What a run of pushes leaves: the last events of those held and pushed, at most eight (R135). -/
theorem Queue.content_foldl_push_eq_drop (evs : List Event) {q : Queue} (h : q.WellFormed) :
    (evs.foldl (fun q ev => q.push ev) q).content = (q.content ++ evs).drop ((q.content ++ evs).length - 8) := by
  have hlast := List.suffix_iff_eq_drop.1 (Queue.content_foldl_push evs h)
  rw [hlast, Queue.content_length_foldl_push evs h, List.length_append]
  congr 1
  omega

/-- Settles O31: the full and the free ring, and the run of one push. -/
theorem pushAppendsToTheContent : Obligations.PushAppendsToTheContent := by
  intro ev q h
  have hpush := Queue.content_push ev q h
  have hfull : q.full = true ↔ q.content.length = 8 := by rw [Queue.full_eq_true, Queue.content_length]
  refine ⟨fun h8 => ?_, fun h8 => ?_, Queue.content_foldl_push_eq_drop [ev] h, Queue.push_wellFormed ev q h⟩
  · have hne : q.content ≠ [] := by intro hnil; simp [hnil] at h8
    rw [hpush, if_pos (hfull.2 h8), List.drop_one, List.tail_append_of_ne_nil hne]
  · rw [hpush, if_neg (mt hfull.1 h8), List.drop_zero]

/-- Settles O34: the last eight of what was held and pushed, and their number. -/
theorem overflowKeepsTheMostRecent : Obligations.OverflowKeepsTheMostRecent := by
  intro q evs h
  have hlast := Queue.content_foldl_push_eq_drop evs h
  have hlen := Queue.content_length_foldl_push evs h
  refine ⟨?_, hlen, fun h8 => ?_, ?_, Queue.foldl_push_wellFormed evs h⟩
  · rw [hlast, List.length_append]
    congr 1
    omega
  · rw [hlast, List.length_append, Nat.add_sub_assoc h8, List.drop_length_add_append]
  · rw [hlen, List.length_append]
    omega

/-! ### POP -/

/-- Where the low byte is free, the index or value put there is a summand (R75, R80). -/
theorem shiftLeft_or_val (a : Word) (x : BitVec 8) : a <<< 8 ||| x.setWidth 16 = a <<< 8 + x.setWidth 16 := by
  rw [BitVec.add_eq_or_of_and_eq_zero]
  refine BitVec.eq_of_getLsbD_eq fun k hk => ?_
  rcases Nat.lt_or_ge k 8 with h | h
  · simp [h]
  · simp [BitVec.getLsbD_of_ge x k h]

/-- The event word in a response: `ETYPE` above `VAL` (R75, R80). -/
theorem Event.word_setWidth (ev : Event) :
    ev.word.setWidth 16 = (BitVec.ofBool ev.etype.bit).setWidth 16 <<< 8 + ev.btn.setWidth 16 := by
  have hbtn : (ev.btn.setWidth 9).setWidth 16 = ev.btn.setWidth 16 := BitVec.setWidth_setWidth (by decide)
  have hbit : ((BitVec.ofBool ev.etype.bit).setWidth 9 <<< 8).setWidth 16 =
      (BitVec.ofBool ev.etype.bit).setWidth 16 <<< 8 := by
    cases ev.etype <;> rfl
  rw [← shiftLeft_or_val, Event.word, BitVec.setWidth_or, hbtn, hbit]

/-- The response to a `POP` that takes an event, as a sum of its fields (R132). -/
theorem responseWord_event_fields (e : Bool) (x : BitVec 8) :
    responseWord .ok true e x = 0x0800#16 + ((BitVec.ofBool e).setWidth 16 <<< 8) + x.setWidth 16 := by
  cases e
  · exact shiftLeft_or_val 8#16 x
  · exact shiftLeft_or_val 9#16 x

/-- The same response by the event word (R132, R134). -/
theorem responseWord_event (ev : Event) :
    responseWord .ok true ev.etype.bit ev.btn = 0x0800#16 + ev.word.setWidth 16 := by
  rw [responseWord_event_fields, Event.word_setWidth, BitVec.add_assoc]

/-- `POP` on an empty queue (R132). -/
theorem exec_pop_empty {s : State} (hm : s.cfg.eventMode = .queue) (hc : s.q.count = 0) :
    exec .pop s = .next (respond false false 0 s) := by
  simp [exec, execPop, hm, Queue.pop?, hc]

/-- `POP` on a queue that holds an event (R132). -/
theorem exec_pop_event {s : State} (hm : s.cfg.eventMode = .queue) {ev : Event} {q : Queue}
    (hp : s.q.pop? = some (ev, q)) :
    exec .pop s = .next (respond true ev.etype.bit ev.btn (s.setQueue q)) := by
  simp [exec, execPop, hm, hp]

/-- `POP` where there is no queue (R36, R78). -/
theorem exec_pop_outside {s : State} (hm : s.cfg.eventMode ≠ .queue) :
    exec .pop s = .next (refuse .errIllegal s) := by
  simp [exec, execPop, hm]

theorem Queue.pop?_of_count_ne {q : Queue} (hc : q.count ≠ 0) :
    q.pop? = some (q.buf.get (slot q.front), { q with front := q.front + 1, count := q.count - 1 }) :=
  if_neg hc

/-- No command but `POP` has its opcode (R72, R73). -/
theorem eq_pop_of_opField {i : Instr} (h : opField (encode i) = 3#4) : i = .pop := by
  cases i <;> simp [encode, opField_commandWord] at h ⊢

/-- Settles O32: a word that decodes is its command's word, and `POP` by its three cases. -/
theorem popTakesTheFrontSlot : Obligations.PopTakesTheFrontSlot := by
  refine fun s => ⟨rfl, fun w hop hne => ?_, exec_pop_empty, fun hm hc => ?_, exec_pop_outside⟩
  · cases hd : decode s.cfg.eventMode w with
    | illegal why => exact ⟨why, rfl⟩
    | command i =>
      obtain rfl := encode_of_decode_command hd
      obtain rfl := eq_pop_of_opField hop
      exact absurd rfl hne
  · rw [exec_pop_event hm (Queue.pop?_of_count_ne hc), ← responseWord_event_fields]
    rfl

/-- Settles O33: what `POP` takes of the ring is the head of the content. -/
theorem popTakesTheOldestEvent : Obligations.PopTakesTheOldestEvent := by
  intro s hwf hm
  cases hp : s.q.pop? with
  | none =>
    have hc := (Queue.pop?_eq_none s.q).1 hp
    have hnil := (Queue.content_eq_nil s.q).2 hc
    exact ⟨_, exec_pop_empty hm hc, hwf, fun _ => rfl, fun ev evs hcons => by simp [hnil] at hcons⟩
  | some r =>
    obtain ⟨ev, q⟩ := r
    obtain ⟨hcontent, hq⟩ := Queue.content_pop s.q q ev hwf hp
    refine ⟨_, exec_pop_event hm hp, hq, fun hnil => by simp [hcontent] at hnil, fun ev' evs hcons => ?_⟩
    obtain ⟨rfl, rfl⟩ := List.cons.inj (hcontent.symm.trans hcons)
    exact ⟨rfl, rfl, congrArg some (responseWord_event ev)⟩

/-! ### The events of a tick -/

/-- An `UPDATE` that completes is its scan, under good thresholds (R154, R201). -/
theorem exec_update_completed {s t : State} (hp : s.phase = .run) (h : exec .update s = .next t) (hb : t.busy = none) :
    (∀ i < s.cfg.n, s.cfg.threshold i ≠ 0) ∧
      t = (respond false false 0 (forButtons tickButton s.cfg.n s)).spend s.tickPorts.length := by
  have hT : s.cfg.thresholdsOk = true := by
    by_contra hno
    simp [exec, execUpdate, hp, hno] at h
  rw [exec_update_eq hp hT] at h
  split at h <;> cases h
  · exact ⟨(Config.thresholdsOk_iff _).1 hT, rfl⟩
  · cases hb

/-- One pass of the loop delivers its events, and its pin read is none (R61, R158). -/
theorem deliveries_of_pass (p : PinId) (evs : List Event) :
    (.pinRead p :: evs.map .deliver : List PortAction).filterMap PortAction.event? = evs := by
  change (evs.map .deliver).filterMap PortAction.event? = evs
  rw [List.filterMap_map]
  exact List.filterMap_some

/-- What a tick delivers are its events, in callback mode (R158). -/
theorem State.tickPorts_events (s : State) :
    s.tickPorts.filterMap PortAction.event? = if s.cfg.eventMode = .callback then s.tickEvents else [] := by
  rw [State.tickPorts, State.tickEvents, List.filterMap_flatMap, List.filterMap_eq_flatMap_toList]
  split
  · simp only [deliveries_of_pass]
  · simp [PortAction.event?]

/-- What an `UPDATE` that completes distributes is the list of its tick's events (R136, R158). -/
theorem exec_update_distributed {s t : State} (hp : s.phase = .run) (h : exec .update s = .next t)
    (hb : t.busy = none) : s.Distributed t s.tickEvents := by
  obtain ⟨-, rfl⟩ := exec_update_completed hp h hb
  obtain ⟨-, -, -, -, -, -, -, hq, hports, -⟩ := forButtons_tick s s.cfg.n
  refine ⟨hq, ?_⟩
  rw [← State.tickPorts_events, ← List.filterMap_append]
  exact congrArg _ hports

/-- An `UPDATE` that completes takes every button one STEP (R154). -/
theorem exec_update_button {s t : State} (hlen : s.btn.length = s.cfg.n) (hp : s.phase = .run)
    (h : exec .update s = .next t) (hb : t.busy = none) {j : Nat} (hj : j < s.cfg.n) : t.button j = (s.tickOf j).1 := by
  obtain ⟨-, rfl⟩ := exec_update_completed hp h hb
  obtain ⟨-, -, -, -, -, -, -, -, -, -, -, hbutton⟩ := forButtons_tick s s.cfg.n
  exact hbutton j hj (hlen ▸ hj)

theorem eventOf_btn_toNat {c : Config} (hc : c.WellFormed) {i : Nat} (hi : i < c.n) (e : EdgeType) :
    (eventOf i e).btn.toNat = i :=
  Nat.mod_eq_of_lt (Nat.lt_of_lt_of_le hi hc)

theorem State.mem_tickEvents {s : State} {ev : Event} :
    ev ∈ s.tickEvents ↔ ∃ i < s.cfg.n, ∃ e, (s.tickOf i).2 = some e ∧ eventOf i e = ev := by
  simp [State.tickEvents]

/-- The events of a tick ascend in their button (R136). -/
theorem State.tickEvents_ascend {s : State} (hc : s.cfg.WellFormed) :
    s.tickEvents.Pairwise fun a b => a.btn.toNat < b.btn.toNat := by
  rw [State.tickEvents, List.pairwise_filterMap]
  refine List.Pairwise.imp_of_mem (fun hi hj hlt a ha b hb => ?_) List.pairwise_lt_range
  obtain ⟨e, -, rfl⟩ := Option.map_eq_some_iff.1 ha
  obtain ⟨e', -, rfl⟩ := Option.map_eq_some_iff.1 hb
  rwa [eventOf_btn_toNat hc (List.mem_range.1 hi), eventOf_btn_toNat hc (List.mem_range.1 hj)]

theorem mem_edgesOf {i : Nat} {e : EdgeType} {evs : List Event} : e ∈ edgesOf i evs ↔ eventOf i e ∈ evs := by
  simp only [edgesOf, List.mem_map, List.mem_filter, beq_iff_eq]
  constructor
  · rintro ⟨ev, ⟨hev, hbtn⟩, rfl⟩
    rwa [eventOf, ← hbtn]
  · exact fun h => ⟨_, ⟨h, rfl⟩, rfl⟩

theorem EdgeType.bit_inj {e e' : EdgeType} : e.bit = e'.bit ↔ e = e' := by
  cases e <;> cases e' <;> decide

/-- STEP answers the edge `e` exactly when it changes the level to that of `e` (R81, R102). -/
theorem Button.step_edge_iff {T : Count} (hT : T ≠ 0) {a : Bool} {b : Button} {e : EdgeType} :
    (Button.step T a b).2 = some e ↔ b.current ≠ e.bit ∧ (Button.step T a b).1.current = e.bit := by
  rw [Button.step_current hT]
  constructor
  · intro h
    simp [h, Button.step_edge_flips hT h]
  · rintro ⟨hne, hlevel⟩
    cases h : (Button.step T a b).2 with
    | none => exact absurd (by simpa [h] using hlevel) hne
    | some e' => simpa [h, EdgeType.bit_inj] using hlevel

/-- Settles O40: the list is that of the tick's events. -/
theorem eventsOfATickAscend : Obligations.EventsOfATickAscend := by
  rintro s t ⟨hc, hlen, -⟩ hp h hb
  obtain ⟨hT, -⟩ := exec_update_completed hp h hb
  refine ⟨s.tickEvents, exec_update_distributed hp h hb, State.tickEvents_ascend hc, fun ev hev => ?_,
    fun j hj e => ?_⟩
  · obtain ⟨i, hi, e, -, rfl⟩ := State.mem_tickEvents.1 hev
    rwa [eventOf_btn_toNat hc hi]
  · calc eventOf j e ∈ s.tickEvents
      _ ↔ (s.tickOf j).2 = some e := by rw [← mem_edgesOf, edgesOf_tickEvents hc hj, Option.mem_toList]
      _ ↔ (s.button j).current ≠ e.bit ∧ (t.button j).current = e.bit := by
        rw [exec_update_button hlen hp h hb hj]
        exact Button.step_edge_iff (hT j hj)

end Sys2Proof.Machine
end

section
/-! SUPPORT. What `INIT` and `UPDATE` answer, refused and completed, the words of their opcodes, and the statements of
42_dispatch.md that follow from it. -/

namespace Sys2Proof

/-! ### Words of an opcode without index -/

/-- The opcode of a command without index is that command's alone (R72). -/
theorem eq_of_opField_encode {c i : Instr} (hc : c.index? = none) (h : opField (encode i) = opField (encode c)) :
    i = c := by
  cases c
  case init | update | pop => cases i <;> simp [encode, opField_commandWord] at h ⊢
  all_goals cases hc

/-- Of the words with the opcode of a command without index, only the command's own is legal (R73, R78). -/
theorem decode_illegal_of_opField {mode : EventMode} {c : Instr} (hc : c.index? = none) {w : Word}
    (hop : opField w = opField (encode c)) (hne : w ≠ encode c) : ∃ why, decode mode w = .illegal why := by
  cases hd : decode mode w with
  | illegal why => exact ⟨why, rfl⟩
  | command i =>
    obtain rfl := encode_of_decode_command hd
    obtain rfl := eq_of_opField_encode hc hop
    exact absurd rfl hne

namespace Machine

/-! ### INIT -/

theorem State.initPorts_length (s : State) : s.initPorts.length = s.cfg.n := by
  simp [State.initPorts]

/-- `INIT` in RUN is refused (R151, R174). -/
theorem exec_init_running {s : State} (hp : s.phase = .run) : exec .init s = .next (refuse .errPhase s) := by
  simp [exec, execInit, hp]

/-- `INIT` with no button or with a zero threshold is refused (R151, R152). -/
theorem exec_init_badConfig {s : State} (hp : s.phase = .uninit) (hok : ¬s.cfg.ok = true) :
    exec .init s = .next (refuse .errConfig s) := by
  simp [exec, execInit, hp, hok]

/-- `INIT` that is not refused and has its reads answered is its scan (R151, R201). -/
theorem exec_init_completes {s : State} (hp : s.phase = .uninit) (hok : s.cfg.ok = true)
    (hc : s.completes s.cfg.n = true) :
    exec .init s =
      .next ((respond false false 0 ((forButtons initButton s.cfg.n s).setPhase .run)).spend s.cfg.n) := by
  rw [exec_init_eq hp hok, s.initPorts_length, if_pos hc]

/-- Settles O35: the refusals are those of the phase and of the configuration, the success is the scan. -/
theorem initSeedsEveryButton : Obligations.InitSeedsEveryButton := by
  rintro s ⟨-, hlen, -⟩
  refine ⟨rfl, fun w => decode_illegal_of_opField (c := .init) rfl, exec_init_running, fun hp hbad => ?_,
    fun hp hn hT hc => ?_⟩
  · refine exec_init_badConfig hp fun hok => ?_
    obtain ⟨hn, hT⟩ := (Config.ok_iff _).1 hok
    rcases hbad with h0 | ⟨i, hi, hzero⟩
    · omega
    · exact hT i hi hzero
  · obtain ⟨hcfg, hq, -, -, hhost, hpins, -, htable, hports, -, -, hbutton⟩ := forButtons_init s s.cfg.n
    obtain ⟨hstall, hbusy⟩ := forButtons_init_env s.cfg.n s
    exact ⟨_, exec_init_completes hp ((Config.ok_iff _).2 ⟨hn, hT⟩) hc, rfl, rfl,
      fun i hi => hbutton i hi (hlen ▸ hi), hports, hpins, hq, hcfg, hhost, htable, hbusy,
      congrArg (Option.map _) hstall⟩

/-- Settles O36: a bad configuration leaves the phase, a good one runs the scan. -/
theorem initSucceedsExactlyOnGoodConfig : Obligations.InitSucceedsExactlyOnGoodConfig := by
  intro s hp hc
  simp only [one_le_threshold_iff]
  rw [← Config.ok_iff]
  constructor
  · rintro ⟨t, h, -, ht⟩
    by_contra hok
    rw [exec_init_badConfig hp hok] at h
    cases h
    cases hp.symm.trans ht
  · exact fun hok => ⟨_, exec_init_completes hp hok hc, rfl, rfl⟩

/-! ### UPDATE -/

/-- `UPDATE` in UNINIT is refused (R154, R174). -/
theorem exec_update_uninit {s : State} (hp : s.phase = .uninit) : exec .update s = .next (refuse .errPhase s) := by
  simp [exec, execUpdate, hp]

/-- What an `UPDATE` that completes leaves, in each mode (R154, R158, R159). -/
structure State.TickedTo (s t : State) : Prop where
  rsp : t.rsp = some 0x0000#16
  button : ∀ i < s.cfg.n, t.button i = (s.tickOf i).1
  queue : t.q = if s.cfg.eventMode = .queue then s.tickEvents.foldl (fun q ev => q.push ev) s.q else s.q
  ports : t.ports = s.ports ++ s.tickPorts
  pins : t.pins = s.pins.drop s.cfg.n
  phase : t.phase = .run
  cfg : t.cfg = s.cfg
  host : t.host = s.host
  table : t.btn.length = s.btn.length
  busy : t.busy = s.busy
  stall : t.stallAfter = s.stallAfter.map (· - s.tickPorts.length)

/-- `UPDATE` in RUN with good thresholds and its port actions completed (R154, R158, R159, R201). -/
theorem exec_update_tickedTo {s : State} (hlen : s.btn.length = s.cfg.n) (hp : s.phase = .run)
    (hT : ∀ i < s.cfg.n, s.cfg.threshold i ≠ 0) (hc : s.completes s.tickPorts.length = true) :
    ∃ t, exec .update s = .next t ∧ s.TickedTo t := by
  obtain ⟨hcfg, hphase, -, hhost, hpins, -, htable, hq, hports, -, -, hbutton⟩ := forButtons_tick s s.cfg.n
  obtain ⟨hstall, hbusy⟩ := forButtons_tick_env s.cfg.n s
  have hx := exec_update_eq hp ((Config.thresholdsOk_iff _).2 hT)
  rw [if_pos hc] at hx
  exact ⟨_, hx, rfl, fun i hi => hbutton i hi (hlen ▸ hi), hq, hports, hpins, hphase.trans hp, hcfg, hhost, htable,
    hbusy, congrArg (Option.map _) hstall⟩

/-- Where nothing is delivered, a tick reads the pins and does nothing else at the ports (R61, R159). -/
theorem State.tickPorts_of_ne_callback {s : State} (hm : s.cfg.eventMode ≠ .callback) :
    s.tickPorts = s.initPorts := by
  simp only [State.tickPorts, State.initPorts, if_neg hm, List.map_eq_flatMap]

/-- In callback mode a button's pin read is followed by the delivery of its edge (R61, R158). -/
theorem State.tickPorts_of_callback {s : State} (hm : s.cfg.eventMode = .callback) :
    s.tickPorts = (List.range s.cfg.n).flatMap fun i =>
      .pinRead (s.cfg.pin i) :: (s.tickOf i).2.toList.map fun e => .deliver (eventOf i e) := by
  simp only [State.tickPorts, if_pos hm, Option.toList_map, List.map_map, Function.comp_def]

/-- Settles O37: in queue mode a tick makes as many port actions as there are buttons. -/
theorem updateTicksEveryButton : Obligations.UpdateTicksEveryButton := by
  rintro s ⟨-, hlen, -⟩ hm
  have hports : s.tickPorts = s.initPorts := State.tickPorts_of_ne_callback (by simp [hm])
  have hcount : s.tickPorts.length = s.cfg.n := hports ▸ s.initPorts_length
  refine ⟨rfl, fun w => decode_illegal_of_opField (c := .update) rfl, exec_update_uninit, fun hp hT hc => ?_⟩
  obtain ⟨t, hx, ht⟩ := exec_update_tickedTo hlen hp hT (hcount ▸ hc)
  exact ⟨t, hx, ht.rsp, ht.button, ht.queue.trans (if_pos hm),
    ht.ports.trans (congrArg (s.ports ++ ·) hports), ht.pins, ht.phase, ht.cfg, ht.host, ht.table,
    ht.busy, hcount ▸ ht.stall⟩

/-- Settles O38: the same tick, its port actions by mode. -/
theorem updateOutsideQueueMode : Obligations.UpdateOutsideQueueMode := by
  rintro s ⟨-, hlen, -⟩ hm
  refine ⟨exec_update_uninit, fun hp hT hc => ?_⟩
  obtain ⟨t, hx, ht⟩ := exec_update_tickedTo hlen hp hT hc
  refine ⟨t, hx, ht.rsp, ht.button, fun hcall => ?_, fun hnone => ?_, ht.pins, ht.queue.trans (if_neg hm), ht.phase,
    ht.cfg, ht.host, ht.table, ht.busy, ht.stall⟩
  · exact ht.ports.trans (congrArg (s.ports ++ ·) (State.tickPorts_of_callback hcall))
  · exact ht.ports.trans (congrArg (s.ports ++ ·) (State.tickPorts_of_ne_callback (by simp [hnone])))

/-- Settles O41: both ticks take button `j` the same STEP, whose edge is all that they distribute for it. -/
theorem buttonsDoNotAffectEachOther : Obligations.ButtonsDoNotAffectEachOther := by
  rintro s s' t t' j ⟨hc, hlen, -⟩ ⟨hc', hlen', -⟩ hp hp' hj hj' hbutton hthreshold hanswer h h' hb hb'
  have hstep : s.tickOf j = s'.tickOf j := by rw [State.tickOf, hthreshold, hanswer, hbutton, State.tickOf]
  refine ⟨?_, s.tickEvents, s'.tickEvents, exec_update_distributed hp h hb, exec_update_distributed hp' h' hb',
    State.tickEvents_ascend hc, State.tickEvents_ascend hc', ?_⟩
  · rw [exec_update_button hlen hp h hb hj, exec_update_button hlen' hp' h' hb' hj', hstep]
  · rw [edgesOf_tickEvents hc hj, edgesOf_tickEvents hc' hj', hstep]

/-- STEP's edge by the levels before and after (R81, R102). -/
theorem Button.step_edge_of_levels {T : Count} (hT : T ≠ 0) (a : Bool) (b : Button) :
    (Button.step T a b).2.toList =
      if b.current = (Button.step T a b).1.current then []
      else if (Button.step T a b).1.current then [.rising] else [.falling] := by
  rw [Button.step_current hT]
  cases h : (Button.step T a b).2 with
  | none => simp
  | some e =>
    have hflip := Button.step_edge_flips hT h
    cases e <;> simp [hflip, EdgeType.bit]

/-- Settles O42: the events are those of the tick, and the latches are those of O43. -/
theorem flipIsLatchedAndPushed : Obligations.FlipIsLatchedAndPushed := by
  intro s t hwf hp h hb
  have ⟨hc, hlen, _⟩ := hwf
  obtain ⟨hT, -⟩ := exec_update_completed hp h hb
  refine ⟨⟨s.tickEvents, exec_update_distributed hp h hb, fun ev hev => ?_, fun j hj => ?_⟩, fun j hj => ?_⟩
  · obtain ⟨i, hi, e, -, rfl⟩ := State.mem_tickEvents.1 hev
    rwa [eventOf_btn_toNat hc hi]
  · rw [edgesOf_tickEvents hc hj, exec_update_button hlen hp h hb hj]
    exact Button.step_edge_of_levels (hT j hj) _ _
  · obtain ⟨hlatch, -⟩ := latchesHaveTheirCauses .update s t j hwf hj h
    obtain ⟨hrising, hfalling⟩ := hlatch rfl
    exact ⟨fun hlow hhigh => by simp [hrising, hlow, hhigh], fun hhigh hlow => by simp [hfalling, hhigh, hlow]⟩

/-! ### The waiting block -/

/-- A command that waits is executed once the environment goes on, with what was completed added (R85, U11). -/
theorem changeEnvironment_waiting {s : State} {w : Waiting} (hb : s.busy = some w) (e : Option Nat) :
    changeEnvironment e s =
      exec w.command { s with busy := none, stallAfter := e.map (· + w.done.length) } := by
  simp [changeEnvironment, hb]

/-- Settles O54: no word is taken at the port that waits, and the environment serves the command. -/
theorem waitingBlockIsStuckUntilServed : Obligations.WaitingBlockIsStuckUntilServed := by
  intro s w hb
  have hbusy : s.busy ≠ none := by simp [hb]
  refine ⟨step_idle, fun word rest hh => step_waits hh rfl hbusy, fun word k rest hh => step_waits hh rfl hbusy,
    fun e rest hh => ?_⟩
  exact (step_environment hh).trans (changeEnvironment_waiting (s := s.accept rest) hb e)

end Machine

end Sys2Proof
end

section
/-! SUPPORT. When a command is refused and with which status, that only a zero threshold keeps a command from its next
state, and the statements of 60_exceptions.md that follow from it. -/

namespace Sys2Proof.Machine

/-! ### Refusals and their causes -/

/-- A bad configuration is one without buttons or with a zero threshold (R152, R173). -/
theorem Config.not_ok_iff (c : Config) :
    ¬c.ok = true ↔ c.n = 0 ∨ ∃ k < c.n, c.threshold k = 0 := by
  rw [Config.ok_iff, not_and_or]
  simp

/-- The causes of each status with which the command `i` is refused in `s` (R172 to R175). -/
def State.Refuses (s : State) (i : Instr) : Status → Prop
  | .ok         => False
  | .errConfig  => i = .init ∧ s.phase = .uninit ∧ ¬s.cfg.ok = true
  | .errPhase   => (i = .update ∧ s.phase = .uninit) ∨ (i = .init ∧ s.phase = .run)
  | .errIndex   => ∃ k, i.index? = some k ∧ s.cfg.n ≤ k.toNat
  | .errIllegal => i = .pop ∧ s.cfg.eventMode ≠ .queue

theorem State.Refuses.ne_ok {s : State} {i : Instr} {st : Status} (h : s.Refuses i st) : st ≠ .ok := by
  rintro rfl
  exact h

/-- Where a cause holds, the command is refused with its status (R171). -/
theorem exec_of_refuses {s : State} {i : Instr} {st : Status} (h : s.Refuses i st) :
    exec i s = .next (refuse st s) := by
  cases st with
  | ok => exact h.elim
  | errConfig =>
    obtain ⟨rfl, hp, hok⟩ := h
    exact exec_init_badConfig hp hok
  | errPhase =>
    rcases h with ⟨rfl, hp⟩ | ⟨rfl, hp⟩
    · exact exec_update_uninit hp
    · exact exec_init_running hp
  | errIndex =>
    obtain ⟨k, hk, hn⟩ := h
    exact exec_bad_index hk hn
  | errIllegal =>
    obtain ⟨rfl, hm⟩ := h
    exact exec_pop_outside hm

/-! ### What keeps a command from its success -/

/-- `POP` in queue mode is answered OK, on any queue (R132). -/
theorem exec_pop_responds {s : State} (hm : s.cfg.eventMode = .queue) :
    ∃ v e x u, exec .pop s = .next (respond v e x u) := by
  cases hp : s.q.pop? with
  | none => exact ⟨_, _, _, _, exec_pop_empty hm ((Queue.pop?_eq_none _).1 hp)⟩
  | some r => exact ⟨_, _, _, _, exec_pop_event hm hp⟩

/-- A command with an index below `N` is answered OK, in any phase (R175). -/
theorem exec_good_index_responds {s : State} {i : Instr} {k : ButtonIndex} (hi : i.index? = some k)
    (hk : k.toNat < s.cfg.n) : ∃ v e x u, exec i s = .next (respond v e x u) := by
  cases i <;> cases hi
  case read =>
    rw [exec_read, State.readWord, if_pos ((s.hasButton_eq_true k).2 hk)]
    exact ⟨_, _, _, _, rfl⟩
  case consumeRising => exact ⟨_, _, _, _, exec_consume (.inl rfl) hk⟩
  case consumeFalling => exact ⟨_, _, _, _, exec_consume (.inr (.inl rfl)) hk⟩
  case consumeChanged => exact ⟨_, _, _, _, exec_consume (.inr (.inr rfl)) hk⟩

/-- What can become of a command: it is refused for a cause, it goes to the ports, it is answered OK at once, or it is
the `UPDATE` under a zero threshold, to which the spec gives no meaning (R110, R171, U1). -/
theorem command_cases (s : State) (i : Instr) :
    (∃ st, s.Refuses i st) ∨ s.UsesPorts i ∨ (∃ v e x u, exec i s = .next (respond v e x u)) ∨
    (i = .update ∧ s.phase = .run ∧ ¬s.cfg.thresholdsOk = true) := by
  cases hidx : i.index? with
  | some k =>
    rcases Nat.lt_or_ge k.toNat s.cfg.n with hk | hk
    · exact .inr (.inr (.inl (exec_good_index_responds hidx hk)))
    · exact .inl ⟨.errIndex, k, hidx, hk⟩
  | none =>
    cases i
    case init =>
      cases hp : s.phase with
      | run => exact .inl ⟨.errPhase, .inr ⟨rfl, hp⟩⟩
      | uninit =>
        by_cases hok : s.cfg.ok = true
        · exact .inr (.inl (.inl ⟨rfl, hp, hok⟩))
        · exact .inl ⟨.errConfig, rfl, hp, hok⟩
    case update =>
      cases hp : s.phase with
      | uninit => exact .inl ⟨.errPhase, .inl ⟨rfl, hp⟩⟩
      | run =>
        by_cases hT : s.cfg.thresholdsOk = true
        · exact .inr (.inl (.inr ⟨rfl, hp, hT⟩))
        · exact .inr (.inr (.inr ⟨rfl, rfl, hT⟩))
    case pop =>
      by_cases hm : s.cfg.eventMode = .queue
      · exact .inr (.inr (.inl (exec_pop_responds hm)))
      · exact .inl ⟨.errIllegal, rfl, hm⟩
    all_goals cases hidx

/-- The status of every answer: a refusal has a cause, a command that waits is not answered, and every other response is
OK (R76, R171, R201). -/
theorem exec_status_cases {i : Instr} {s t : State} (h : exec i s = .next t) :
    (∃ st, s.Refuses i st ∧ t = refuse st s) ∨ (t.rsp = s.rsp ∧ t.busy ≠ none) ∨
    ∃ v e x, t.rsp = some (responseWord .ok v e x) := by
  rcases command_cases s i with ⟨st, hst⟩ | hports | ⟨v, e, x, u, hx⟩ | ⟨rfl, hp, hT⟩
  · rw [exec_of_refuses hst] at h
    cases h
    exact .inl ⟨st, hst, rfl⟩
  · cases hc : s.completes (s.actionsOf i).length with
    | true =>
      obtain ⟨u, hx, hrsp, -⟩ := exec_of_completes hports hc
      rw [hx] at h
      cases h
      exact .inr (.inr ⟨false, false, 0, hrsp⟩)
    | false =>
      rw [exec_of_not_completes hports hc] at h
      cases h
      exact .inr (.inl ⟨rfl, nofun⟩)
  · rw [hx] at h
    cases h
    exact .inr (.inr ⟨v, e, x, rfl⟩)
  · simp [exec, execUpdate, hp, hT] at h

/-- An answered command gets a refusal's word exactly for its causes (R77, R171). -/
theorem exec_rsp_refusal_iff {i : Instr} {s t : State} (h : exec i s = .next t) (hb : t.busy = none) {st : Status}
    (hst : st ≠ .ok) : t.rsp = some (responseWord st false false 0) ↔ s.Refuses i st := by
  constructor
  · intro hr
    rcases exec_status_cases h with ⟨st', hcause, rfl⟩ | ⟨-, hbusy⟩ | ⟨v, e, x, hok⟩
    · obtain ⟨rfl, -⟩ := responseWord_inj.1 (Option.some.inj hr)
      exact hcause
    · exact absurd hb hbusy
    · obtain ⟨rfl, -⟩ := responseWord_inj.1 (Option.some.inj (hr.symm.trans hok))
      exact absurd rfl hst
  · intro hcause
    rw [exec_of_refuses hcause] at h
    cases h
    rfl

/-- Settles O11: the causes of the three statuses, that of ERR_CONFIG written out. -/
theorem errorsHaveTheirCauses : Obligations.ErrorsHaveTheirCauses := by
  intro i s t h hb
  rw [← Config.not_ok_iff]
  exact ⟨exec_rsp_refusal_iff h hb (st := .errConfig) nofun, exec_rsp_refusal_iff h hb (st := .errPhase) nofun,
    exec_rsp_refusal_iff h hb (st := .errIndex) nofun⟩

/-! ### A refused word -/

theorem responseWord_refusal_low (st : Status) : (responseWord st false false 0).extractLsb' 0 12 = 0#12 := by
  cases st <;> rfl

/-- A word answered with a status other than OK was refused (R70, R171). -/
theorem executeWord_refused {w r : Word} {s t : State} (h : executeWord w s = .next t) (hs : s.rsp = none)
    (hr : t.rsp = some r) (hst : r.extractLsb' 12 4 ≠ 0#4) : ∃ st, t = refuse st s := by
  rcases executeWord_next_cases h with ⟨why, -, rfl⟩ | ⟨i, -, hx⟩
  · exact ⟨_, rfl⟩
  · rcases exec_status_cases hx with ⟨st, -, rfl⟩ | ⟨hrsp, -⟩ | ⟨v, e, x, hok⟩
    · exact ⟨st, rfl⟩
    · simp [hrsp, hs] at hr
    · obtain rfl := Option.some.inj (hok.symm.trans hr)
      exact absurd (responseWord_status _ _ _ _) hst

/-- An input that need not wait for the port is handled in the accepting state (R60, R70). -/
theorem step_taken {s : State} {x : HostInput} {rest : List HostInput} (hh : s.host = x :: rest)
    (hx : x.needsPort = true → s.busy = none) : step s = handleInput x (s.accept rest) := by
  have hready : ¬(x.needsPort && s.busy.isSome) = true := by simpa using hx
  simp only [step, fetch, hh, if_neg hready]

/-- Accepting an input forgets the outputs of the one before, so they do not matter to it (R65, R70). -/
theorem step_outputs_irrelevant {s : State} (hb : s.busy = none) (hne : s.host ≠ []) (rsp : Option Word)
    (ports : List PortAction) : step { s with rsp := rsp, ports := ports } = step s := by
  obtain ⟨x, rest, hh⟩ := List.exists_cons_of_ne_nil hne
  rw [step_taken hh fun _ => hb, step_taken (s := { s with rsp := rsp, ports := ports }) hh fun _ => hb]
  rfl

/-- Settles O10: a refusal writes the response alone, and the next input does not see it. -/
theorem refusedCommandChangesNothing : Obligations.RefusedCommandChangesNothing := by
  intro s t w r rest hb hh h hr hst
  rw [step_command hh hb] at h
  obtain ⟨st, rfl⟩ := executeWord_refused h rfl hr hst
  cases hr
  exact ⟨rfl, responseWord_refusal_low st,
    fun hne => step_outputs_irrelevant (s := { s with host := rest }) hb hne _ _⟩

/-! ### No step stops -/

/-- Settles O8, the idle case of a step. -/
theorem idleBlockKeepsItsState : Obligations.IdleBlockKeepsItsState := fun _ => step_idle

theorem State.Inv.thresholdsOk {s : State} (hinv : s.Inv) (hp : s.phase = .run) : s.cfg.thresholdsOk = true := by
  obtain ⟨-, -, hrun, -⟩ := hinv
  obtain ⟨-, hT⟩ := (Config.ok_iff _).1 (hrun hp).1
  exact (Config.thresholdsOk_iff _).2 hT

/-- With good thresholds in RUN every command answers a next state (R110, R170). -/
theorem exec_answers {s : State} (hT : s.phase = .run → s.cfg.thresholdsOk = true) (i : Instr) :
    ∃ t, exec i s = .next t := by
  rcases command_cases s i with ⟨st, hst⟩ | hports | ⟨v, e, x, u, hx⟩ | ⟨-, hp, hno⟩
  · exact ⟨_, exec_of_refuses hst⟩
  · cases hc : s.completes (s.actionsOf i).length with
    | true =>
      obtain ⟨t, hx, -⟩ := exec_of_completes hports hc
      exact ⟨t, hx⟩
    | false => exact ⟨_, exec_of_not_completes hports hc⟩
  · exact ⟨_, hx⟩
  · exact absurd (hT hp) hno

/-- With good thresholds in RUN every input is handled to a next state (R170). -/
theorem handleInput_answers {s : State} (hT : s.phase = .run → s.cfg.thresholdsOk = true) (x : HostInput) :
    ∃ t, handleInput x s = .next t := by
  cases x with
  | command w =>
    cases hd : decode s.cfg.eventMode w with
    | command i =>
      obtain ⟨t, hx⟩ := exec_answers hT i
      exact ⟨t, (executeWord_command hd).trans hx⟩
    | illegal why => exact ⟨_, executeWord_illegal hd⟩
  | reset => exact ⟨_, rfl⟩
  | resetDuring w k => exact ⟨_, rfl⟩
  | environment e =>
    cases hb : s.busy with
    | none => exact ⟨{ s with stallAfter := e }, by simp [handleInput, changeEnvironment, hb]⟩
    | some w =>
      obtain ⟨t, hx⟩ :=
        exec_answers (s := { s with busy := none, stallAfter := e.map (· + w.done.length) }) hT w.command
      exact ⟨t, (changeEnvironment_waiting hb e).trans hx⟩

/-- Settles O50: the host presents nothing, or a word that waits, or an input that is handled. -/
theorem noStepStopsUnderTheInvariant : Obligations.NoStepStopsUnderTheInvariant := by
  intro s hinv
  cases hh : s.host with
  | nil => exact ⟨s, step_idle hh⟩
  | cons x rest =>
    by_cases hx : x.needsPort = true → s.busy = none
    · rw [step_taken hh hx]
      exact handleInput_answers (s := s.accept rest) hinv.thresholdsOk x
    · obtain ⟨hport, hbusy⟩ := Classical.not_imp.1 hx
      exact ⟨s, step_waits hh hport hbusy⟩

end Sys2Proof.Machine
end

section
/-! SUPPORT. What reset, the commands and the environment make of the invariant, and the statements of
70_reset_and_hazards.md that follow from it. -/

namespace Sys2Proof

/-- A reset button answers 0 to each consume (R41, R192). -/
theorem Instr.latch_reset (c : Instr) : c.latch Machine.Button.reset = false := by
  cases c <;> rfl

namespace Machine

/-! ### Reset and the block before INIT -/

/-- Settles O13: the abandoned word leaves `applyReset`, and of its port actions the first `k` at most. -/
theorem resetAbandonsACommand : Obligations.ResetAbandonsACommand := by
  intro s w k rest hb hh
  exact ⟨_, step_resetDuring hh hb, List.length_replicate, fun i => State.button_applyReset _ i, Queue.reset_content,
    rfl, rfl, rfl, rfl, rfl, rfl, rfl, List.length_take_le k _⟩

/-- Settles O14: in UNINIT the invariant gives the reset buttons, the empty queue and the refusal of `UPDATE`. -/
theorem blockBeforeInitAnswersZero : Obligations.BlockBeforeInitAnswersZero := by
  rintro s ⟨hwf, huninit, -⟩ hp
  obtain ⟨hbutton, hempty⟩ := huninit hp
  refine ⟨fun i hi c hc => ?_, fun hm => ⟨_, exec_pop_empty hm hempty, rfl⟩, ⟨_, exec_update_uninit hp, rfl⟩, step_idle⟩
  have hcases : c = .read i ∨ c.Consumes i := by simpa using hc
  rcases hcases with rfl | hconsume
  · obtain ⟨-, hread, -⟩ := readAnswersTheLevel s i
    exact ⟨_, hread hi, by rw [hbutton _ hi]; rfl⟩
  · obtain ⟨t, hx, hrsp, -⟩ := exec_consume_frame hconsume hwf hi
    exact ⟨t, hx, by rw [hrsp, hbutton _ hi, c.latch_reset]; rfl⟩

/-! ### What the commands make of the invariant -/

/-- A command that uses the ports waits in its own phase (R58, R201). -/
theorem State.Inv.hang {s : State} {i : Instr} (hinv : s.Inv) (hp : s.UsesPorts i) (done : List PortAction) :
    (s.hang i done).Inv := by
  obtain ⟨hwf, huninit, hrun, hmode, -⟩ := hinv
  refine ⟨hwf, huninit, hrun, hmode, fun w hw => ?_⟩
  cases hw
  exact hp.imp (fun ⟨hi, hphase, _⟩ => ⟨hi, hphase⟩) (fun ⟨hi, hphase, _⟩ => ⟨hi, hphase⟩)

/-- Rewriting latches alone keeps the invariant: it speaks of counters and levels, and in UNINIT of reset records. -/
theorem State.Inv.setButton {s : State} (hinv : s.Inv) (k : Nat) (f : Button → Button)
    (hcounter : ∀ b, (f b).counter = b.counter) (hcurrent : ∀ b, (f b).current = b.current)
    (hreset : f Button.reset = Button.reset) : (s.setButton k (f (s.button k))).Inv := by
  obtain ⟨⟨hcfg, hlen, hq⟩, huninit, hrun, hmode, hbusy⟩ := hinv
  have hcases := s.button_setButton_cases f k
  refine ⟨⟨hcfg, List.length_set.trans hlen, hq⟩, fun hp => ?_, fun hp => ?_, hmode, hbusy⟩
  · obtain ⟨hbutton, hempty⟩ := huninit hp
    refine ⟨fun j hj => ?_, hempty⟩
    rcases hcases j with e | ⟨-, e⟩
    · exact e.trans (hbutton j hj)
    · rw [e, hbutton j hj, hreset]
  · obtain ⟨hok, hsettled⟩ := hrun hp
    refine ⟨hok, fun j hj => ?_⟩
    rcases hcases j with e | ⟨-, e⟩
    · rw [e]
      exact hsettled j hj
    · rw [e, Button.Settled, hcounter, hcurrent]
      exact hsettled j hj

/-- Taking an event keeps the invariant: in UNINIT and outside queue mode there is none to take (R34, R36, R132). -/
theorem State.Inv.popped {s : State} {ev : Event} {q : Queue} (hinv : s.Inv) (hpop : s.q.pop? = some (ev, q)) :
    (s.setQueue q).Inv := by
  obtain ⟨⟨hcfg, hlen, hq⟩, huninit, hrun, hmode, hbusy⟩ := hinv
  have hne : s.q.count ≠ 0 := fun h0 => by simp [(Queue.pop?_eq_none _).2 h0] at hpop
  obtain ⟨-, hwf⟩ := Queue.content_pop _ _ _ hq hpop
  exact ⟨⟨hcfg, hlen, hwf⟩, fun hp => absurd (huninit hp).2 hne, hrun, fun hm => absurd (hmode hm) hne, hbusy⟩

/-- A block in RUN that has an accepted configuration, settled buttons and nothing waiting meets the invariant, if its
queue is well formed and, outside queue mode, as it was (R36, R195). -/
theorem State.Inv.settled {s t : State} (hinv : s.Inv) (hok : s.cfg.ok = true) (hcfg : t.cfg = s.cfg)
    (hlen : t.btn.length = s.btn.length) (hq : t.q.WellFormed) (hmode : s.cfg.eventMode ≠ .queue → t.q = s.q)
    (hp : t.phase = .run) (hb : t.busy = none)
    (hsettled : ∀ i < s.cfg.n, (t.button i).Settled (s.cfg.threshold i)) : t.Inv := by
  obtain ⟨⟨hcfgwf, htable, -⟩, -, -, hnone, -⟩ := hinv
  simp only [State.Inv, State.WellFormed, hcfg, hlen, hp, hb]
  exact ⟨⟨hcfgwf, htable, hq⟩, nofun, fun _ => ⟨hok, hsettled⟩, fun hm => hmode hm ▸ hnone hm, nofun⟩

/-- What a successful `INIT` establishes (R151, R195). -/
theorem forButtons_init_inv {s : State} (hinv : s.Inv) (hb : s.busy = none) (hok : s.cfg.ok = true) :
    ((forButtons initButton s.cfg.n s).setPhase .run).Inv := by
  have ⟨⟨_, hlen, hqwf⟩, _⟩ := hinv
  obtain ⟨-, hT⟩ := (Config.ok_iff _).1 hok
  obtain ⟨hcfg, hq, -, -, -, -, -, htable, -, -, -, hbutton⟩ := forButtons_init s s.cfg.n
  obtain ⟨-, hbusy⟩ := forButtons_init_env s.cfg.n s
  refine hinv.settled hok hcfg htable (hq ▸ hqwf) (fun _ => hq) rfl (hbusy.trans hb) fun i hi => ?_
  rw [State.setPhase_button, hbutton i hi (hlen ▸ hi)]
  exact Button.seed_settled (hT i hi) _

/-- A tick in RUN keeps the invariant: STEP keeps buttons settled, PUSH keeps the queue well formed (R154, R195). -/
theorem forButtons_tick_inv {s : State} (hinv : s.Inv) (hb : s.busy = none) (hp : s.phase = .run) :
    (forButtons tickButton s.cfg.n s).Inv := by
  have ⟨⟨_, hlen, hqwf⟩, _, hrun, _⟩ := hinv
  obtain ⟨hok, hsettled⟩ := hrun hp
  obtain ⟨-, hT⟩ := (Config.ok_iff _).1 hok
  obtain ⟨hcfg, hphase, -, -, -, -, htable, hq, -, -, -, hbutton⟩ := forButtons_tick s s.cfg.n
  obtain ⟨-, hbusy⟩ := forButtons_tick_env s.cfg.n s
  have hpushed : (forButtons tickButton s.cfg.n s).q.WellFormed := by
    rw [hq]
    split
    · exact Queue.foldl_push_wellFormed _ hqwf
    · exact hqwf
  refine hinv.settled hok hcfg htable hpushed (fun hm => hq.trans (if_neg hm)) (hphase.trans hp) (hbusy.trans hb)
    fun i hi => ?_
  rw [hbutton i hi (hlen ▸ hi)]
  exact Button.step_settled (hT i hi) _ (hsettled i hi)

/-- Every command keeps the invariant, taken when none waits (R60, R195). -/
theorem exec_inv {i : Instr} {s t : State} (hinv : s.Inv) (hb : s.busy = none) (h : exec i s = .next t) : t.Inv := by
  rcases exec_next_cases h with ⟨st, -, rfl⟩ | ⟨hp, -, rfl⟩ | ⟨-, -, hok, -, rfl⟩ | ⟨-, hp, -, -, rfl⟩ |
    ⟨-, -, -, rfl⟩ | ⟨ev, q, -, -, hpop, rfl⟩ | ⟨k, -, -, rfl⟩ | ⟨k, -, -, rfl⟩ | ⟨k, -, -, rfl⟩ | ⟨k, -, -, rfl⟩
  · exact hinv
  · exact hinv.hang hp _
  · exact forButtons_init_inv hinv hb hok
  · exact forButtons_tick_inv hinv hb hp
  · exact hinv
  · exact hinv.popped hpop
  · exact hinv
  · exact hinv.setButton k.toNat Button.clearRising (fun _ => rfl) (fun _ => rfl) rfl
  · exact hinv.setButton k.toNat Button.clearFalling (fun _ => rfl) (fun _ => rfl) rfl
  · exact hinv.setButton k.toNat Button.clearBoth (fun _ => rfl) (fun _ => rfl) rfl

/-- Settles O48: a step leaves the block as it is, resets it, or executes one command in it. -/
theorem everyStepKeepsTheInvariant : Obligations.EveryStepKeepsTheInvariant := by
  intro s t hinv h
  have ⟨⟨hcfg, _⟩, _⟩ := hinv
  rcases step_next_cases h with ⟨-, rfl⟩ | ⟨x, rest, -, -, -, rfl⟩ | ⟨w, rest, -, hb, hw⟩ | ⟨rest, -, rfl⟩ |
    ⟨w, k, rest, -, -, rfl⟩ | ⟨e, rest, -, he⟩
  · exact hinv
  · exact hinv
  · rcases executeWord_next_cases hw with ⟨why, -, rfl⟩ | ⟨i, -, hx⟩
    · exact hinv
    · exact exec_inv (s := s.accept rest) hinv hb hx
  · exact State.SameBlock.inv ⟨rfl, rfl, rfl, rfl⟩ rfl (State.resetOf_inv hcfg)
  · exact State.SameBlock.inv ⟨rfl, rfl, rfl, rfl⟩ rfl (State.resetOf_inv hcfg)
  · rcases changeEnvironment_next_cases he with ⟨-, rfl⟩ | ⟨w, -, hx⟩
    · exact hinv
    · exact exec_inv (s := { s.accept rest with busy := none, stallAfter := e.map (· + w.done.length) })
        (State.SameBlock.inv (s := s) ⟨rfl, rfl, rfl, rfl⟩ rfl hinv) rfl hx

end Machine

end Sys2Proof
end

section
/-! SUPPORT. The words of test vector V14. -/

namespace Sys2Proof

/-- A word with a bit of `RSV` set is illegal, whatever its other fields (R71, R78). -/
theorem decode_of_rsvField_ne_zero (mode : EventMode) {w : Word} (h : rsvField w ≠ 0) :
    decode mode w = .illegal .reservedBits := if_pos h

/-- Settles O5: a legal word of V14 is the word of its command; an illegal one has a bit of `RSV` set, or is made of an
`OP` and an `IDX` that the decoder's equation refuses. -/
theorem wordsOfTheSpecDecode : Obligations.WordsOfTheSpecDecode := by
  simp only [Obligations.WordsOfTheSpecDecode, decode_queue_eq_command_iff]
  exact ⟨rfl, rfl, rfl, rfl, rfl, rfl, rfl, decode_commandWord .queue 1 1,
    decode_of_rsvField_ne_zero .queue (by decide), decode_commandWord .queue 8 0⟩

end Sys2Proof
end
